-- ==== Sys2Proof/Word.lean ====
section
/-! DEFINITION. Bytes, eight-byte buffers, the 64-bit result word and their plainest access (00_scope.md R6, R12). -/

namespace Sys2Proof

/-- A byte: an 8-bit unsigned value, bit 0 least significant (R12). -/
abbrev Byte := BitVec 8

/-- A frame, a secret or a byte buffer: exactly eight bytes `X[0]` to `X[7]` (R6, R12). -/
abbrev Bytes8 := Vector Byte 8

/-- A 64-bit RESULT word (R23). -/
abbrev Word64 := BitVec 64

/-- A command as it stands on the port: exactly nine bytes `C[0]` to `C[8]` (R45, R50). -/
abbrev Command := Vector Byte 9

/-- A response as it is sent: exactly eleven bytes `P[0]` to `P[10]` (R45, R51). -/
abbrev ResponseBytes := Vector Byte 11

/-- The buffer whose byte `i` is `f i`. -/
def buffer (f : Fin 8 → Byte) : Bytes8 := Vector.ofFn f

@[simp] theorem buffer_get (f : Fin 8 → Byte) (i : Fin 8) : (buffer f).get i = f i := by
  simp [buffer]

/-- Two buffers that agree at every index are the same buffer. -/
theorem bytes8_ext {x y : Bytes8} (h : ∀ i : Fin 8, x.get i = y.get i) : x = y := by
  apply Vector.ext
  intro i hi
  exact h ⟨i, hi⟩

end Sys2Proof
end

