-- ==== Sys2Proof/Syntax.lean ====
section
/-! DEFINITION. The command set, FDB command set version 1 (00_scope.md R2, 30_encoding.md R52), and what the host can do
to the block. -/

namespace Sys2Proof

/-- One constructor per row of spec/opcode_table.json. Each carries its eight operand lanes `op[0..7]` (R50), the ignored
ones too: a model accepts any value in a lane a command does not read (R53), so that every term is well formed. Reserved
opcodes are no row of the table; the decoder rejects them by name and the step performs ILLEGAL_OPCODE (R54). -/
inductive Instr where
  /-- SETKEY, opcode 0x01: load the Session Secret (R141). -/
  | setkey (op : Bytes8)
  /-- DEOBF, opcode 0x02: deobfuscate one frame with the held secret (R79). -/
  | deobf (op : Bytes8)
  /-- TESTOBF, opcode 0x03: evaluate the heuristic on one frame (R92). -/
  | testobf (op : Bytes8)
  /-- VALIDATE, opcode 0x04: check one frame (R103). -/
  | validate (op : Bytes8)
  /-- CLASSIFY, opcode 0x05: classify one record (R119). -/
  | classify (op : Bytes8)
  /-- DECODE, opcode 0x06: the full pipeline on one raw frame (R132). -/
  | decode (op : Bytes8)
  deriving DecidableEq, Repr

/-- The operand lanes of a command. -/
def Instr.op : Instr → Bytes8
  | .setkey op => op
  | .deobf op => op
  | .testobf op => op
  | .validate op => op
  | .classify op => op
  | .decode op => op

/-- R57's one pseudo-form, `CLASSIFY tag, value16`: it expands to
`CLASSIFY tag, value16 >> 8, value16 & 0xFF, 0, 0, 0, 0, 0`. -/
def Instr.classifyValue (tag : Byte) (value : BitVec 16) : Instr :=
  .classify #v[tag, (value >>> 8).setWidth 8, (value &&& 0xFF).setWidth 8, 0, 0, 0, 0, 0]

/-- DESIGN CHOICE (log entry 3): what the host can do to the block, one event at a time, in the order it happens (R47). -/
inductive HostEvent where
  /-- The host issues one whole command, which is then performed (R45, R47). -/
  | command (c : Command)
  /-- A reset (R170). `lost` is the command, if any, that had been issued but had not begun when the reset came: it is lost,
  and no response is produced for it (log entry 9). -/
  | reset (lost : Option Command)
  /-- The host reads the output latch (R23). -/
  | readOut
  deriving DecidableEq, Repr

end Sys2Proof
end

