-- ==== Sys2Proof/Decode.lean ====
section
/-! DEFINITION. The command format CMD9 (30_encoding.md R50, R55) and the opcode map (R52): decoding, total on any bytes and
rejecting by name, and the encoder. -/

namespace Sys2Proof

/-- Why bytes are no command of the opcode map. -/
inductive DecodeError where
  /-- A partial or over-long command: the block knows only whole commands of nine bytes (R45, log entry 14). -/
  | notNineBytes (n : Nat)
  /-- A reserved opcode, 0x00 or 0x07 to 0xFF (R54); the step then performs ILLEGAL_OPCODE. -/
  | reservedOpcode (opc : Byte)
  deriving DecidableEq, Repr

/-- The outcome of decoding. -/
inductive Decoded where
  | command (i : Instr)
  | rejected (e : DecodeError)
  deriving DecidableEq, Repr

/-- OPC = C[0] (R50). -/
def Command.opc (cmd : Command) : Byte := cmd[0]

/-- The operand lanes, `op[i] = C[1+i]` (R50). -/
def Command.operand (cmd : Command) : Bytes8 := #v[cmd[1], cmd[2], cmd[3], cmd[4], cmd[5], cmd[6], cmd[7], cmd[8]]

/-- The command with opcode `opc` and operand lanes `op` (R50). -/
def Command.make (opc : Byte) (op : Bytes8) : Command :=
  #v[opc, op[0], op[1], op[2], op[3], op[4], op[5], op[6], op[7]]

/-- The command as one 72-bit word CMD: byte k is `CMD[8k+7:8k]` (R50). -/
def Command.word (cmd : Command) : BitVec 72 :=
  (cmd[8] ++ cmd[7] ++ cmd[6] ++ cmd[5] ++ cmd[4] ++ cmd[3] ++ cmd[2] ++ cmd[1] ++ cmd[0]).setWidth 72

/-- The command whose 72-bit word is `w`. -/
def Command.ofWord (w : BitVec 72) : Command := Vector.ofFn fun k : Fin 9 => w.extractLsb' (8 * k.val) 8

/-- The opcode map (R52): C[0] is the opcode and C[1..8] the operand, with no length decision (R55). -/
def decode (cmd : Command) : Decoded :=
  match (Command.opc cmd).toNat with
  | 0x01 => .command (.setkey (Command.operand cmd))
  | 0x02 => .command (.deobf (Command.operand cmd))
  | 0x03 => .command (.testobf (Command.operand cmd))
  | 0x04 => .command (.validate (Command.operand cmd))
  | 0x05 => .command (.classify (Command.operand cmd))
  | 0x06 => .command (.decode (Command.operand cmd))
  | _ => .rejected (.reservedOpcode (Command.opc cmd))

/-- Decoding of any bytes: only nine of them are a command (R45). -/
def decodeBytes (bs : List Byte) : Decoded :=
  if h : bs.length = 9 then decode ⟨bs.toArray, by simpa using h⟩ else .rejected (.notNineBytes bs.length)

/-- The instruction a decoding names, if it names one. -/
def Decoded.instr? : Decoded → Option Instr
  | .command i => some i
  | .rejected _ => none

/-- The command an opcode-table word stands for: bit 0 is the least significant bit of C[0], and the bits above `nbits` are
zero. -/
def tableCommand (nbits w : Nat) : Command := Command.ofWord (BitVec.ofNat 72 (w % 2 ^ nbits))

/-- The instruction the decoder reads from an opcode-table word. -/
def decodeTableWord (nbits w : Nat) : Option Instr := (decode (tableCommand nbits w)).instr?

/-- The opcode of a command (R52). -/
def Instr.opcode : Instr → Byte
  | .setkey _ => 0x01
  | .deobf _ => 0x02
  | .testobf _ => 0x03
  | .validate _ => 0x04
  | .classify _ => 0x05
  | .decode _ => 0x06

/-- The nine bytes of a command (R50, R52). -/
def encode (i : Instr) : Command := Command.make i.opcode i.op

/-- The opcodes R54 reserves: 0x00 and 0x07 to 0xFF. -/
def reservedOpcode (opc : Byte) : Bool := opc == 0x00 || decide (0x07 ≤ opc.toNat)

end Sys2Proof
end

