-- ==== Sys2Proof/Config.lean ====
section
/-! DEFINITION. What is fixed at manufacture: the three parameters of the command set with their defaults
(00_scope.md R7 to R9) and the constants the source fixes (R10). -/

namespace Sys2Proof

/-- MEAS_FLOAT, the format of the Temperature and Humidity results (R9). -/
inductive MeasFloat where
  | binary64
  | binary32
  deriving DecidableEq, Repr

/-- The read-only constants of one block (10_state.md R25) that are parameters of the model (R7, R8, R9).
KS is computed from `kconst` (R74); MARKER and the tags are fixed for every block (R10). -/
structure Params where
  /-- PERM: eight 3-bit entries; R11 asks that they be a bijection on 0..7. -/
  perm : Vector (Fin 8) 8
  /-- KCONST: the eight bytes of step 4. -/
  kconst : Bytes8
  /-- MEAS_FLOAT. -/
  measFloat : MeasFloat
  deriving DecidableEq, Repr

/-- PRESUMED (log entry 5): the defaults of R7 and R8, which the spec itself takes from general knowledge,
with the default format of R9 (log entry 6). -/
def Params.default : Params where
  perm := #v[2, 4, 0, 7, 1, 6, 5, 3]
  kconst := #v[0x48, 0x74, 0x65, 0x6D, 0x70, 0x39, 0x39, 0x65]
  measFloat := .binary64

namespace Config

/-- MARKER: the expected value of frame byte 4 (R10). -/
def marker : Byte := 0x0D

/-- The tag of a Temperature record (R10). -/
def tagTemperature : Byte := 0x42

/-- The tag of a Humidity record (R10). -/
def tagHumidity : Byte := 0x44

/-- The tag of a CO2 record (R10). -/
def tagCO2 : Byte := 0x50

end Config

end Sys2Proof
end

