-- ==== Sys2Proof/Machine/State.lean ====
section
/-! DEFINITION. The whole state of the block (10_state.md R20 to R31), its reset value, and the reasons a step can stop. -/

namespace Sys2Proof.Machine

/-- The legal values of OUT.STATUS (R24, R58). -/
inductive Status where
  /-- The command completed. -/
  | ok
  /-- The source's single error kind (R151). -/
  | invalidFrame
  /-- A reserved opcode (R152). -/
  | illegalOpcode
  /-- DEOBF or DECODE issued while KEYED = 0 (R153). -/
  | noKey
  /-- SETKEY issued while KEYED = 1 (R154). -/
  | keyLocked
  deriving DecidableEq, Repr

/-- The legal values of OUT.KIND (R24, R59). -/
inductive Kind where
  | none
  | temperature
  | humidity
  | co2
  deriving DecidableEq, Repr

/-- The four response fields of the output latch, written together by every command (R23, R46). -/
structure Response where
  status : Status
  kind : Kind
  flag : Bool
  result : Word64
  deriving DecidableEq, Repr

/-- OUT, the output latch (R23): VALID and the response it holds. While `valid` is false the other fields hold no value the
block shows: a host read is then a fault. -/
structure Out where
  valid : Bool
  resp : Response
  deriving DecidableEq, Repr

/-- The state of the block. `secret`, `keyed` and `out` are exactly the persistent state of R20; `params` are the read-only
constants of R25, which nothing writes; `port` is the model's own field (log entry 3). -/
structure State where
  /-- SECRET[0..7] (R21). -/
  secret : Bytes8
  /-- KEYED (R22). -/
  keyed : Bool
  /-- OUT (R23). -/
  out : Out
  /-- PERM, KCONST and MEAS_FLOAT (R7, R8, R9, R25). -/
  params : Params
  /-- What the host does next, oldest first. -/
  port : List HostEvent
  deriving DecidableEq, Repr

/-- Why a step stops with a fault. -/
inductive Fault where
  /-- Raised by a host read of OUT while OUT.VALID = 0 (R23): "a fault, not a value". Safe: the block has no value to show. -/
  | outNotValid
  deriving DecidableEq, Repr

/-- Why a step is refused. -/
inductive Refusal where
  /-- Raised by exec's arm of an instruction without a meaning; no arm is so now. Safe. -/
  | notModelled (mnemonic : String)
  /-- Raised by every step of a block whose parameters fail one of R11's two checks: such a model "is refused". Safe: no
  real block has such parameters. -/
  | illFormedParameters
  deriving DecidableEq, Repr

/-- The outcome of a step. -/
abbrev Result := Host.Outcome State Fault Refusal

/-- The block with parameters `p` right after power-on (R31, R170): KEYED = 0 and OUT.VALID = 0. The spec gives SECRET no
value (DESIGN CHOICE, log entry 1: zeros) and OUT's other fields none (DESIGN CHOICE, log entry 2: OK, NONE, 0, 0). -/
def State.powerOn (p : Params) : State where
  secret := #v[0, 0, 0, 0, 0, 0, 0, 0]
  keyed := false
  out := ⟨false, ⟨.ok, .none, false, 0⟩⟩
  params := p
  port := []

/-- The machine right after reset, with the default parameters of R7 to R9 and nothing issued by the host. -/
def State.reset : State := State.powerOn Params.default

end Sys2Proof.Machine
end

