-- ==== Sys2Proof/Machine/Flags.lean ====
section
/-! DEFINITION. The block's one flag, OUT.FLAG (10_state.md R26), and the predicate it reports (41_heuristic.md R90). -/

namespace Sys2Proof.Machine

/-- The encryption heuristic (R90): true unless byte 4 is the marker 0x0D. A hint and not a verdict (R93), reproduced
exactly. -/
def looksObfuscated (f : Bytes8) : Bool := f[4] != Config.marker

/-- FLAG of TESTOBF: 1 exactly when the operand frame looks obfuscated (R26, R92). -/
def testobfFlag (f : Bytes8) : Bool := looksObfuscated f

/-- FLAG of DECODE with status OK or INVALID_FRAME: 1 exactly when deobfuscation was applied (R26, R131). -/
def decodeFlag (raw : Bytes8) : Bool := looksObfuscated raw

/-- FLAG of SETKEY, DEOBF, VALIDATE, CLASSIFY and of every refused command (R26). -/
def clearedFlag : Bool := false

end Sys2Proof.Machine
end

