-- ==== Sys2Proof/Machine/Float.lean ====
section
/-! DEFINITION. The floating-point operators of 00_scope.md R14 in the format MEAS_FLOAT (R9): each operation computes its
exact result as a fraction and rounds it once, to nearest with ties to even. The formats and bit layouts are those of IEEE 754
(log entry 12). -/

namespace Sys2Proof

/-- Precision in bits, the hidden bit included. -/
def MeasFloat.precision : MeasFloat → Nat
  | .binary64 => 53
  | .binary32 => 24

/-- Exponent bias. -/
def MeasFloat.bias : MeasFloat → Nat
  | .binary64 => 1023
  | .binary32 => 127

/-- Width of the bit pattern. -/
def MeasFloat.width : MeasFloat → Nat
  | .binary64 => 64
  | .binary32 => 32

/-- The least exponent of the last place: that of the subnormal numbers. -/
def MeasFloat.minExp (fmt : MeasFloat) : Int := 2 - (fmt.bias : Int) - (fmt.precision : Int)

/-- The magnitude pattern of infinity: the largest biased exponent, fraction zero. -/
def MeasFloat.infPattern (fmt : MeasFloat) : Nat := (2 * fmt.bias + 1) * 2 ^ (fmt.precision - 1)

end Sys2Proof

namespace Sys2Proof.Machine

/-- An exact rational `num / den` before rounding; `den` is positive. -/
structure Frac where
  num : Int
  den : Nat
  deriving DecidableEq, Repr

/-- A finite floating-point value `(-1)^neg * mant * 2^exp`. -/
structure Fp where
  neg : Bool
  mant : Nat
  exp : Int
  deriving DecidableEq, Repr

/-- `floor (log2 (n / d))` for positive n and d. -/
def floorLog2 (n d : Nat) : Int :=
  let e : Int := (Nat.log2 n : Int) - (Nat.log2 d : Int)
  if d * 2 ^ e.toNat ≤ n * 2 ^ (-e).toNat then e else e - 1

/-- `n / d` to the nearest natural number, ties to even. -/
def roundQuot (n d : Nat) : Nat :=
  let q := n / d
  let r := n % d
  if d < 2 * r || (2 * r == d && q % 2 == 1) then q + 1 else q

/-- The magnitude `n / d` rounded to the format: mantissa and exponent of the last place. -/
def roundMagnitude (fmt : MeasFloat) (n d : Nat) : Nat × Int :=
  if n = 0 then (0, fmt.minExp)
  else
    let q : Int := max (floorLog2 n d - ((fmt.precision : Int) - 1)) fmt.minExp
    let m := roundQuot (n * 2 ^ (-q).toNat) (d * 2 ^ q.toNat)
    if m = 2 ^ fmt.precision then (2 ^ (fmt.precision - 1), q + 1) else (m, q)

/-- Rounding to nearest, ties to even (R14); an exact zero is +0. -/
def roundFrac (fmt : MeasFloat) (x : Frac) : Fp :=
  let r := roundMagnitude fmt x.num.natAbs x.den
  ⟨decide (x.num < 0), r.1, r.2⟩

/-- The exact rational a value denotes. -/
def Fp.frac (x : Fp) : Frac :=
  let m : Int := ((x.mant * 2 ^ x.exp.toNat : Nat) : Int)
  ⟨if x.neg then -m else m, 2 ^ (-x.exp).toNat⟩

/-- Exact quotient of two rationals. -/
def Frac.div (a b : Frac) : Frac :=
  let n : Int := a.num * (b.den : Int)
  ⟨if b.num < 0 then -n else n, a.den * b.num.natAbs⟩

/-- Exact difference of two rationals. -/
def Frac.sub (a b : Frac) : Frac := ⟨a.num * (b.den : Int) - b.num * (a.den : Int), a.den * b.den⟩

/-- `to_float(n)` for an integer 0 to 65535 (R14; exact by R115). -/
def toFloat (fmt : MeasFloat) (n : BitVec 16) : Fp := roundFrac fmt ⟨(n.toNat : Int), 1⟩

/-- `fconst(d)`: a decimal literal, given as an exact fraction, rounded to nearest (R14). -/
def fconst (fmt : MeasFloat) (d : Frac) : Fp := roundFrac fmt d

/-- `f_div(a, b)` for a nonzero b (R14; R111 and R112 divide by 16 and 100 only). -/
def fdiv (fmt : MeasFloat) (a b : Fp) : Fp := roundFrac fmt (a.frac.div b.frac)

/-- `f_sub(a, b)` (R14). -/
def fsub (fmt : MeasFloat) (a b : Fp) : Fp := roundFrac fmt (a.frac.sub b.frac)

/-- The magnitude part of the bit pattern. With E the exponent of the last place counted from the format's least, it is
`E * 2^(p-1) + mant`: the hidden bit of a normal number adds one to the biased exponent, a subnormal one has E = 0. Past the
largest finite number it is the pattern of infinity. -/
def Fp.magnitudePattern (fmt : MeasFloat) (x : Fp) : Nat :=
  min ((x.exp - fmt.minExp).toNat * 2 ^ (fmt.precision - 1) + x.mant) fmt.infPattern

/-- `bits(x)`: the IEEE 754 bit pattern (R14). -/
def Fp.bits (fmt : MeasFloat) (x : Fp) : BitVec fmt.width :=
  BitVec.ofNat fmt.width ((if x.neg then 2 ^ (fmt.width - 1) else 0) + x.magnitudePattern fmt)

end Sys2Proof.Machine
end

