-- ==== Sys2Proof/Machine/Operands.lean ====
section
/-! DEFINITION. Operand assembly (30_encoding.md R53, R56; 43_classifier.md R110). No operand is sign-extended, scaled or
shifted. -/

namespace Sys2Proof.Machine

/-- A decoded pair of tag and 16-bit unsigned value (R110). -/
structure Record where
  tag : Byte
  value : BitVec 16
  deriving DecidableEq, Repr

/-- A frame operand: `F[i] = op[i]` (R56). -/
def frameOperand (op : Bytes8) : Bytes8 := op

/-- A secret operand: `s[i] = op[i]` (R56). -/
def secretOperand (op : Bytes8) : Bytes8 := op

/-- The Record of a validated frame: `tag = F[0]`, `value = F[1] * 256 + F[2]`, high byte first (R42, R110). -/
def recordOfFrame (f : Bytes8) : Record where
  tag := f[0]
  value := BitVec.ofNat 16 (f[1].toNat * 256 + f[2].toNat)

/-- A record operand: `tag = op[0]`, `value = op[1] * 256 + op[2]`, the layout of a validated frame (R56). -/
def recordOperand (op : Bytes8) : Record := recordOfFrame op

end Sys2Proof.Machine
end

