-- ==== Sys2Proof/Machine/Ops.lean ====
section
/-! DEFINITION. The named operations every command is written over: writing the response, raising a status, loading the
secret; and the operations of the host side, reset and a read of OUT. -/

namespace Sys2Proof.Machine

/-- Status codes, response byte P[0] (R58). -/
def Status.code : Status → Byte
  | .ok => 0x00
  | .invalidFrame => 0x01
  | .illegalOpcode => 0x10
  | .noKey => 0x11
  | .keyLocked => 0x12

/-- Kind codes, response byte P[1] (R59). -/
def Kind.code : Kind → Byte
  | .none => 0x00
  | .temperature => 0x01
  | .humidity => 0x02
  | .co2 => 0x03

/-- The unit label is a function of the kind and is not sent (R59, R117). -/
def Kind.unitLabel : Kind → Option String
  | .none => Option.none
  | .temperature => some "°C"
  | .humidity => some "%"
  | .co2 => some "PPM"

/-- Lane i of a 64-bit RESULT word, `RESULT[8i+7:8i]` (R43, R51). -/
def resultLane (r : Word64) (i : Fin 8) : Byte := r.extractLsb' (8 * i.val) 8

/-- The eight lanes of a RESULT word. -/
def resultLanes (r : Word64) : Bytes8 := buffer (resultLane r)

/-- The RESULT word `O[7] ‖ O[6] ‖ ... ‖ O[0]`, whose lane i is O[i] (R43, R79). -/
def laneWord (o : Bytes8) : Word64 :=
  (o[7] ++ o[6] ++ o[5] ++ o[4] ++ o[3] ++ o[2] ++ o[1] ++ o[0]).setWidth 64

/-- FLAGS, response byte P[2]: bit 0 is FLAG and bits 7:1 are always 0 (R51). -/
def flagsByte (flag : Bool) : Byte := if flag then 0x01 else 0x00

/-- The response format RSP11 (R51). -/
def Response.bytes (r : Response) : ResponseBytes :=
  #v[r.status.code, r.kind.code, flagsByte r.flag,
    resultLane r.result 0, resultLane r.result 1, resultLane r.result 2, resultLane r.result 3,
    resultLane r.result 4, resultLane r.result 5, resultLane r.result 6, resultLane r.result 7]

/-- `OUT <- r`: every command writes all four response fields and sets VALID (R15, R23). -/
def State.respond (s : State) (r : Response) : State := { s with out := ⟨true, r⟩ }

/-- The two register writes of SETKEY, made together (R46, R141). -/
def State.loadSecret (s : State) (secret : Bytes8) : State := { s with secret := secret, keyed := true }

/-- The command completes with the response `r`. -/
def complete (r : Response) (s : State) : Result := .next (s.respond r)

/-- The response `raise` writes. -/
def raised (x : Status) : Response := ⟨x, .none, false, 0⟩

/-- `raise X` (R15, R155), the block's one way of taking an error: `OUT <- (X, NONE, 0, 0)` and the command ends; neither
SECRET nor KEYED is written. There is no vector, no saved state and no return (R150). -/
def raiseStatus (x : Status) (s : State) : Result := complete (raised x) s

/-- A command with a reserved opcode: `raise ILLEGAL_OPCODE`, its operand ignored (R54, R152). -/
def execReserved (s : State) : Result := raiseStatus .illegalOpcode s

/-- A reset (R170): every piece of state at its value of R31. The constants are not affected, and what the host does after
the reset still follows. -/
def State.resetBlock (s : State) : State := { State.powerOn s.params with port := s.port }

/-- What a host read of OUT delivers: the response, or a fault while VALID = 0 (R23). -/
def Out.read (o : Out) : Except Fault ResponseBytes :=
  if o.valid then .ok o.resp.bytes else .error .outNotValid

/-- The step in which the host reads OUT: the read changes no state (R24: the fields are read-only to the host). -/
def hostRead (s : State) : Result :=
  match s.out.read with
  | .ok _ => .next s
  | .error f => .fault f

end Sys2Proof.Machine
end

