-- ==== Sys2Proof/Machine/Classifier.lean ====
section
/-! DEFINITION. The Record Classifier and the command CLASSIFY (43_classifier.md). -/

namespace Sys2Proof.Machine

/-- A Measurement: the source's closed, tagged union of exactly three variants (R59). -/
inductive Measurement where
  | temperature (value : Fp)
  | humidity (value : Fp)
  | co2 (ppm : BitVec 16)
  deriving DecidableEq, Repr

/-- Temperature in °C: `value / 16.0 - 273.15`, divide and then subtract (R111; 90_conflicts.md C4). -/
def temperatureOf (fmt : MeasFloat) (value : BitVec 16) : Fp :=
  fsub fmt (fdiv fmt (toFloat fmt value) (fconst fmt ⟨16, 1⟩)) (fconst fmt ⟨27315, 100⟩)

/-- Humidity in %: `value / 100.0` (R112; 90_conflicts.md C5). -/
def humidityOf (fmt : MeasFloat) (value : BitVec 16) : Fp :=
  fdiv fmt (toFloat fmt value) (fconst fmt ⟨100, 1⟩)

/-- The classifier (R111 to R114): any other tag gives no Measurement, which is no error. -/
def classify (fmt : MeasFloat) (r : Record) : Option Measurement :=
  if r.tag = Config.tagTemperature then some (.temperature (temperatureOf fmt r.value))
  else if r.tag = Config.tagHumidity then some (.humidity (humidityOf fmt r.value))
  else if r.tag = Config.tagCO2 then some (.co2 r.value)
  else none

/-- KIND of a classification (R59, R114). -/
def kindOf : Option Measurement → Kind
  | some (.temperature _) => .temperature
  | some (.humidity _) => .humidity
  | some (.co2 _) => .co2
  | none => .none

/-- RESULT of a classification (R116): the bit pattern of a float zero-extended to 64 bits, the CO2 count zero-extended, 0
without a Measurement. -/
def resultOf (fmt : MeasFloat) : Option Measurement → Word64
  | some (.temperature x) => (x.bits fmt).setWidth 64
  | some (.humidity x) => (x.bits fmt).setWidth 64
  | some (.co2 ppm) => ppm.setWidth 64
  | none => 0

/-- The response that reports the classification of a record, with the given FLAG: status OK whatever the tag (R114, R119). -/
def classifyResponse (fmt : MeasFloat) (r : Record) (flag : Bool) : Response :=
  ⟨.ok, kindOf (classify fmt r), flag, resultOf fmt (classify fmt r)⟩

/-- CLASSIFY (R119): it reads no register, works while KEYED = 0 and does not validate. -/
def execClassify (op : Bytes8) (s : State) : Result :=
  complete (classifyResponse s.params.measFloat (recordOperand op) clearedFlag) s

end Sys2Proof.Machine
end

