-- ==== Sys2Proof/Machine/Deobfuscator.lean ====
section
/-! DEFINITION. The Deobfuscator (40_deobfuscator.md): its five steps, its inverse as a test aid, and the command DEOBF. -/

namespace Sys2Proof.Machine

/-- Step 1, permute, in the scatter form (R71): `for i in 0..7: PB[PERM[i]] <- F[i]`. A bijective PERM writes every position
once; the zeros the buffer starts from are seen only under a PERM that R11 refuses (log entry 7). -/
def permute (perm : Vector (Fin 8) 8) (f : Bytes8) : Bytes8 :=
  (List.finRange 8).foldl (fun pb i => pb.set (perm.get i) (f.get i)) (Vector.replicate 8 0)

/-- Step 2, mix with the secret (R72): `MB[i] <- PB[i] ^ S[i]`. -/
def mixSecret (pb s : Bytes8) : Bytes8 := buffer fun i => pb.get i ^^^ s.get i

/-- Step 3, shift and merge (R73, 90_conflicts.md C1): `RB[i] <- ((MB[i] >> 3) | (MB[(i - 1) mod 8] << 5)) & 0xFF`. The
index is modulo 8, so the predecessor of 0 is 7 (R12). -/
def shiftMerge (mb : Bytes8) : Bytes8 := buffer fun i => (mb.get i >>> 3) ||| (mb.get (i - 1) <<< 5)

/-- Step 4, the keystream (R74): the nibbles of each constant byte swapped. -/
def keystream (kconst : Bytes8) : Bytes8 := buffer fun i => (kconst.get i >>> 4) ||| (kconst.get i <<< 4)

/-- Step 5, final combine (R75): `O[i] <- (256 + RB[i] - KS[i]) mod 256`. -/
def combine (rb ks : Bytes8) : Bytes8 := buffer fun i => BitVec.ofNat 8 (256 + (rb.get i).toNat - (ks.get i).toNat)

/-- The mixed buffer MB of `deobfuscate` (R71, R72). -/
def mixedBuffer (p : Params) (s f : Bytes8) : Bytes8 := mixSecret (permute p.perm f) s

/-- The transform of R70: total, no error path, no state but its arguments and the constants. -/
def deobfuscate (p : Params) (s f : Bytes8) : Bytes8 := combine (shiftMerge (mixedBuffer p s f)) (keystream p.kconst)

/-- The inverse of `deobfuscate` (R80): a test aid and no command. -/
def obfuscate (p : Params) (s o : Bytes8) : Bytes8 :=
  let ks := keystream p.kconst
  let rb := buffer fun i => o.get i + ks.get i
  let mb := buffer fun i => (rb.get i <<< 3) ||| (rb.get (i + 1) >>> 5)
  let pb := buffer fun i => mb.get i ^^^ s.get i
  buffer fun i => pb.get (p.perm.get i)

/-- DEOBF (R79). -/
def execDeobf (op : Bytes8) (s : State) : Result :=
  if s.keyed then
    complete ⟨.ok, .none, clearedFlag, laneWord (deobfuscate s.params s.secret (frameOperand op))⟩ s
  else raiseStatus .noKey s

end Sys2Proof.Machine
end

