-- ==== Sys2Proof/Machine/Heuristic.lean ====
section
/-! DEFINITION. The command TESTOBF (41_heuristic.md); its predicate stands in Flags.lean. -/

namespace Sys2Proof.Machine

/-- TESTOBF (R92): it reads no register and works while KEYED = 0. -/
def execTestobf (op : Bytes8) (s : State) : Result :=
  complete ⟨.ok, .none, testobfFlag (frameOperand op), 0⟩ s

end Sys2Proof.Machine
end

