-- ==== Sys2Proof/Machine/Key.lean ====
section
/-! DEFINITION. The Session Secret and the command SETKEY (45_key.md). -/

namespace Sys2Proof.Machine

/-- SETKEY (R141): accepted once between two resets, every value legal; KEY_LOCKED afterwards, SECRET kept (R154). -/
def execSetkey (op : Bytes8) (s : State) : Result :=
  if s.keyed then raiseStatus .keyLocked s
  else complete ⟨.ok, .none, clearedFlag, 0⟩ (s.loadSecret (secretOperand op))

end Sys2Proof.Machine
end

