-- ==== Sys2Proof/Machine/Validator.lean ====
section
/-! DEFINITION. The Frame Validator and the command VALIDATE (42_validator.md). -/

namespace Sys2Proof.Machine

/-- `(F[0] + F[1] + F[2]) mod 256`, summed exactly and then reduced (R100). -/
def checksum (f : Bytes8) : Byte := BitVec.ofNat 8 (f[0].toNat + f[1].toNat + f[2].toNat)

/-- The status of a frame (R101): both checks always applied, their failures joined by OR, with one error kind. -/
def validate (f : Bytes8) : Status :=
  if checksum f != f[3] || looksObfuscated f then .invalidFrame else .ok

/-- VALIDATE (R103): it reads no register, works while KEYED = 0 and never deobfuscates. -/
def execValidate (op : Bytes8) (s : State) : Result :=
  complete ⟨validate (frameOperand op), .none, clearedFlag, 0⟩ s

end Sys2Proof.Machine
end

