-- ==== Sys2Proof/Machine/Pipeline.lean ====
section
/-! DEFINITION. The decode pipeline and the command DECODE (44_pipeline.md). -/

namespace Sys2Proof.Machine

/-- The frame the pipeline validates: the raw frame deobfuscated once if it looks obfuscated, else the raw frame itself
(R130; 90_conflicts.md C6). -/
def plaintext (p : Params) (s raw : Bytes8) : Bytes8 :=
  if looksObfuscated raw then deobfuscate p s raw else raw

/-- `decode(S, raw)` (R130): test, decrypt, validate, classify. The heuristic decides on the raw frame and is applied a second
time, inside validation, to the frame that results; the double use is kept exactly (R133). -/
def decodeFrame (p : Params) (s raw : Bytes8) : Response :=
  let plain := plaintext p s raw
  match validate plain with
  | .ok => classifyResponse p.measFloat (recordOfFrame plain) (decodeFlag raw)
  | bad => ⟨bad, .none, decodeFlag raw, 0⟩

/-- DECODE (R132): NO_KEY while KEYED = 0, even for a frame that would not need the secret. -/
def execDecode (op : Bytes8) (s : State) : Result :=
  if s.keyed then complete (decodeFrame s.params s.secret (frameOperand op)) s
  else raiseStatus .noKey s

/-- The number of Measurements a response carries: one exactly when STATUS = OK and KIND is not NONE (R135). -/
def Response.measurements (r : Response) : Nat :=
  if r.status = .ok ∧ r.kind ≠ .none then 1 else 0

end Sys2Proof.Machine
end

