-- ==== Sys2Proof/Machine/Dispatch.lean ====
section
/-! DEFINITION. One arm per constructor of Instr, each one call of that command's meaning. -/

namespace Sys2Proof.Machine

def exec (i : Instr) (s : State) : Host.Outcome State Fault Refusal :=
  match i with
  | .setkey op => Sys2Proof.Machine.execSetkey op s
  | .deobf op => Sys2Proof.Machine.execDeobf op s
  | .testobf op => Sys2Proof.Machine.execTestobf op s
  | .validate op => Sys2Proof.Machine.execValidate op s
  | .classify op => Sys2Proof.Machine.execClassify op s
  | .decode op => Sys2Proof.Machine.execDecode op s

end Sys2Proof.Machine
end

