-- ==== Sys2Proof/Machine/Port.lean ====
section
/-! DEFINITION. The command port: what the block does with one act of the host (20_memory.md R46, R47). -/

namespace Sys2Proof.Machine

/-- One whole command: the decoded command's meaning, or ILLEGAL_OPCODE for a reserved opcode (R54). -/
def perform (c : Command) (s : State) : Result :=
  match decode c with
  | .command i => exec i s
  | .rejected _ => execReserved s

/-- One event of the host. -/
def serve (e : HostEvent) (s : State) : Result :=
  match e with
  | .command c => perform c s
  | .reset _ => .next s.resetBlock
  | .readOut => hostRead s

end Sys2Proof.Machine
end

