-- ==== Sys2Proof/WellFormed.lean ====
section
/-! DEFINITION. The well-formedness checks the spec makes: of the parameters (00_scope.md R11) and of a command's length
(20_memory.md R45). A term of Instr has no check of its own: every operand lane may hold any value (30_encoding.md R53). -/

namespace Sys2Proof

/-- R11, check 1: PERM is a bijection on 0..7. On eight positions it is enough that every position is reached. -/
def Params.permBijective (p : Params) : Bool :=
  (List.finRange 8).all fun j => (List.finRange 8).any fun i => p.perm.get i == j

/-- R11, check 2, the regression anchor:
`deobfuscate([8,7,6,5,4,3,2,1], [1,2,3,4,5,6,7,8]) = [29,25,234,11,153,45,237,42]`. -/
def Params.anchorHolds (p : Params) : Bool :=
  Machine.deobfuscate p #v[8, 7, 6, 5, 4, 3, 2, 1] #v[1, 2, 3, 4, 5, 6, 7, 8] == #v[29, 25, 234, 11, 153, 45, 237, 42]

/-- Parameters are well formed only if both checks hold (R11). -/
def Params.wf (p : Params) : Bool := p.permBijective && p.anchorHolds

/-- Bytes are a command only if there are exactly nine of them (R45). -/
def commandLength (bs : List Byte) : Bool := bs.length == 9

end Sys2Proof
end

