-- ==== Sys2Proof/Machine/Step.lean ====
section
/-! DEFINITION. One step of the machine: the block takes what the host does next and performs it, indivisibly
(00_scope.md R3; 20_memory.md R46, R47). -/

namespace Sys2Proof.Machine

/-- One step. A block whose parameters fail R11 is refused; with nothing from the host nothing happens (log entry 4); else the
oldest event leaves the port and is served. -/
def step (s : State) : Host.Outcome State Fault Refusal :=
  if s.params.wf then
    match s.port with
    | [] => .next s
    | e :: rest => serve e { s with port := rest }
  else .refused .illFormedParameters

/-- The state in which the host's next act is to issue the command of an opcode-table word: a program is a host's command
sequence and comes to the block from outside (log entry 3). -/
def State.withFetchWord (s : State) (nbits w : Nat) : State :=
  { s with port := .command (tableCommand nbits w) :: s.port }

end Sys2Proof.Machine
end

