-- ==== Sys2Proof/Safety.lean ====
section
/-! DEFINITION. The words the claims use: runs, what a state reachable on this hardware looks like, which host acts never stop
the block, and the rational value of a float. -/

namespace Sys2Proof.Machine

/-- `k` steps of the machine from `s`, stopping at the first fault or refusal. -/
def runs : Nat → State → Result
  | 0, s => .next s
  | k + 1, s =>
    match step s with
    | .next t => runs k t
    | .fault f => .fault f
    | .refused r => .refused r

/-- A list of host events served one after the other, each seeing the whole effect of those before it (R47). -/
def serveAll : List HostEvent → State → Result
  | [], s => .next s
  | e :: es, s =>
    match serve e s with
    | .next t => serveAll es t
    | .fault f => .fault f
    | .refused r => .refused r

/-- What a latched response can be, given the parameters and KEYED after its command (R24, R26, R58, R59, R115, R116). -/
structure LegalResponse (p : Params) (keyed : Bool) (r : Response) : Prop where
  /-- Only status OK carries a kind or a result. -/
  plainError : r.status ≠ .ok → r.kind = .none ∧ r.result = 0
  /-- FLAG is never set with a refused command (R26). -/
  flagStatus : r.flag = true → r.status = .ok ∨ r.status = .invalidFrame
  /-- With FLAG set and no kind there is no result: a deobfuscated frame is reported with FLAG 0 (R79). -/
  flagResult : r.flag = true → r.kind = .none → r.result = 0
  /-- NO_KEY leaves the block unkeyed (R153, R155). -/
  noKey : r.status = .noKey → keyed = false
  /-- KEY_LOCKED leaves the block keyed (R154, R155). -/
  keyLocked : r.status = .keyLocked → keyed = true
  /-- A CO2 result is a 16-bit count (R113, R116). -/
  co2 : r.kind = .co2 → r.result.toNat < 65536
  /-- A Temperature result is the conversion of some 16-bit value (R111, R116). -/
  temperature : r.kind = .temperature →
    ∃ v, r.result = ((temperatureOf p.measFloat v).bits p.measFloat).setWidth 64
  /-- A Humidity result is the conversion of some 16-bit value (R112, R116). -/
  humidity : r.kind = .humidity → ∃ v, r.result = ((humidityOf p.measFloat v).bits p.measFloat).setWidth 64

/-- The invariant of the machine. -/
structure State.Inv (s : State) : Prop where
  /-- The parameters pass R11. -/
  params : s.params.wf = true
  /-- A keyed block has answered at least one command, the SETKEY, since its reset (R22, R23). -/
  keyedAnswered : s.keyed = true → s.out.valid = true
  /-- A latched response is a legal one. -/
  legal : s.out.valid = true → LegalResponse s.params s.keyed s.out.resp

/-- The host reads OUT only while it holds a response, VALID being `valid` to begin with (R23). -/
def readsFollowResponses : Bool → List HostEvent → Bool
  | _, [] => true
  | _, .command _ :: es => readsFollowResponses true es
  | _, .reset _ :: es => readsFollowResponses false es
  | valid, .readOut :: es => valid && readsFollowResponses valid es

/-- A safe state: well-formed parameters, and a host that never reads an empty latch. No run from it stops. -/
def State.Safe (s : State) : Prop := s.params.wf = true ∧ readsFollowResponses s.out.valid s.port = true

/-- No reset stands among the host's next acts. -/
def noReset : List HostEvent → Bool
  | [] => true
  | .reset _ :: _ => false
  | _ :: es => noReset es

/-- The rational number a finite float denotes. -/
def Fp.rat (x : Fp) : ℚ := (if x.neg then -1 else 1) * (x.mant : ℚ) * (2 : ℚ) ^ x.exp

/-- The rational number a fraction denotes. -/
def Frac.rat (x : Frac) : ℚ := (x.num : ℚ) / (x.den : ℚ)

/-- A number of the format, its exponent range unbounded above: the mantissa has at most `p` bits, and all of them unless the
exponent is the least one. -/
def Fp.Representable (fmt : MeasFloat) (x : Fp) : Prop :=
  x.mant < 2 ^ fmt.precision ∧ fmt.minExp ≤ x.exp ∧ (2 ^ (fmt.precision - 1) ≤ x.mant ∨ x.exp = fmt.minExp)

/-- `x` is the number of the format nearest to `q`, with an even mantissa where another number is as near (R14: rounded to
nearest, ties to even). -/
def Fp.NearestEven (fmt : MeasFloat) (q : ℚ) (x : Fp) : Prop :=
  x.Representable fmt ∧
  ∀ y : Fp, y.Representable fmt →
    |x.rat - q| ≤ |y.rat - q| ∧ (|y.rat - q| = |x.rat - q| → y.rat = x.rat ∨ x.mant % 2 = 0)

end Sys2Proof.Machine
end

