-- ==== Sys2Proof/Certificates/Slice0/Obligations.lean ====
section
/-! DEFINITION. The statements for the provers, each named for what it states; the listing is OBLIGATIONS.json. -/

open Sys2Proof Sys2Proof.Machine

/-! ### Encoding -/

/-- R50, R52: decoding the encoding of any instruction gives it back, every operand lane at every value. -/
def Obligations.DecodeOfEncodeIsIdentity : Prop :=
  ∀ i : Instr, decode (encode i) = .command i

/-- R50, R52: nine bytes that decode to an instruction are that instruction's encoding: no lane is dropped. -/
def Obligations.EncodeOfDecodeIsIdentity : Prop :=
  ∀ (cmd : Command) (i : Instr), decode cmd = .command i → encode i = cmd

/-- R50: byte k of a command is CMD[8k+7:8k]; OPC is CMD[7:0] and op[i] is CMD[8i+15:8i+8]; the word and the bytes determine
each other. -/
def Obligations.CommandWordLayout : Prop :=
  ∀ cmd : Command,
    (∀ k : Fin 9, (Command.word cmd).extractLsb' (8 * k.val) 8 = cmd.get k) ∧
    (Command.word cmd).extractLsb' 0 8 = Command.opc cmd ∧
    (∀ i : Fin 8, (Command.word cmd).extractLsb' (8 * i.val + 8) 8 = (Command.operand cmd).get i) ∧
    Command.ofWord (Command.word cmd) = cmd

/-- R52: words written out byte by byte from the opcode map decode to the commands they stand for. -/
def Obligations.SampleWordsDecode : Prop :=
  decodeTableWord 72 0x010203040506070801 = some (.setkey #v[8, 7, 6, 5, 4, 3, 2, 1]) ∧
  decodeTableWord 72 0x080706050403020102 = some (.deobf #v[1, 2, 3, 4, 5, 6, 7, 8]) ∧
  decodeTableWord 72 0x080706050403020103 = some (.testobf #v[1, 2, 3, 4, 5, 6, 7, 8]) ∧
  decodeTableWord 72 0x0000000D7320035004 = some (.validate #v[0x50, 0x03, 0x20, 0x73, 0x0D, 0, 0, 0]) ∧
  decodeTableWord 72 0x00000000001E114205 = some (.classify #v[0x42, 0x11, 0x1E, 0, 0, 0, 0, 0]) ∧
  decodeTableWord 72 0x4D9F9854B7AAA0B406 = some (.decode #v[0xB4, 0xA0, 0xAA, 0xB7, 0x54, 0x98, 0x9F, 0x4D]) ∧
  decodeTableWord 8 0x00 = none ∧ decodeTableWord 72 0x07 = none ∧ decodeTableWord 72 0xFF = none

/-- The reserved opcodes are R54's: 0x00 and 0x07 to 0xFF, whatever the operand. That the decoder rejects exactly these, by name,
having no constructor for them, is the model's choice, not the spec's (log entry 10, DEDUCED); the step then performs
ILLEGAL_OPCODE. -/
def Obligations.ReservedOpcodesAreRejectedByName : Prop :=
  ∀ cmd : Command,
    decode cmd = .rejected (.reservedOpcode (cmd[0])) ↔ (cmd[0]).toNat = 0x00 ∨ 0x07 ≤ (cmd[0]).toNat

/-- A command has exactly nine bytes, by R45 and R55, and nine bytes are decoded as the command they are. That decodeBytes rejects
any other number by name is the model's choice (log entry 14, DEDUCED): the spec says only that partial commands do not exist. -/
def Obligations.OnlyNineBytesAreACommand : Prop :=
  (∀ bs : List Byte, bs.length ≠ 9 → decodeBytes bs = .rejected (.notNineBytes bs.length)) ∧
  ∀ cmd : Command, decodeBytes cmd.toList = decode cmd

/-- R56: a frame and a secret are the lanes in order. The record value is bytes 1 and 2, high byte first (R42). That the tag is
byte 0 is a reading, which R110 marks as the spec's own (91_not_in_source.md N5, 92_eei_decisions.md D17; log entry 16, DEDUCED). -/
def Obligations.OperandAssembly : Prop :=
  ∀ op : Bytes8,
    (∀ i : Fin 8, (frameOperand op).get i = op.get i) ∧
    (∀ i : Fin 8, (secretOperand op).get i = op.get i) ∧
    (recordOperand op).tag = op[0] ∧
    (recordOperand op).value.toNat = (op[1]).toNat * 256 + (op[2]).toNat ∧
    (recordOfFrame op).tag = op[0] ∧
    (recordOfFrame op).value.toNat = (op[1]).toNat * 256 + (op[2]).toNat

/-- R51: the eleven response bytes; bits 7:1 of P[2] are 0; the response is the value of OUT after the command. -/
def Obligations.ResponseFormat : Prop :=
  (∀ r : Response,
    (r.bytes)[0] = r.status.code ∧ (r.bytes)[1] = r.kind.code ∧
    ((r.bytes)[2]).getLsbD 0 = r.flag ∧ (∀ k : Nat, 1 ≤ k → ((r.bytes)[2]).getLsbD k = false) ∧
    ∀ i : Fin 8, (r.bytes).get (Fin.natAdd 3 i) = r.result.extractLsb' (8 * i.val) 8) ∧
  ∀ (cmd : Command) (s : State), ∃ t, perform cmd s = .next t ∧ t.out.read = .ok t.out.resp.bytes

/-- R43: lane i of a RESULT word R is R[8i+7:8i], sent in response byte 3 + i, and a frame RESULT carries frame byte i in lane i; nothing is lost. -/
def Obligations.ResultLaneOrder : Prop :=
  (∀ (r : Word64) (i : Fin 8), resultLane r i = r.extractLsb' (8 * i.val) 8) ∧
  (∀ (r : Response) (i : Fin 8), (r.bytes).get (Fin.natAdd 3 i) = resultLane r.result i) ∧
  (∀ (o : Bytes8) (i : Fin 8), resultLane (laneWord o) i = o.get i) ∧
  ∀ r : Word64, laneWord (resultLanes r) = r

/-- R58, R59, R117: the code values, and the unit labels that go with the kinds. -/
def Obligations.CodeValues : Prop :=
  Status.ok.code = 0x00 ∧ Status.invalidFrame.code = 0x01 ∧ Status.illegalOpcode.code = 0x10 ∧
  Status.noKey.code = 0x11 ∧ Status.keyLocked.code = 0x12 ∧
  Kind.none.code = 0x00 ∧ Kind.temperature.code = 0x01 ∧ Kind.humidity.code = 0x02 ∧ Kind.co2.code = 0x03 ∧
  Kind.none.unitLabel = none ∧ Kind.temperature.unitLabel = some "°C" ∧ Kind.humidity.unitLabel = some "%" ∧
  Kind.co2.unitLabel = some "PPM"

/-! ### The step and the host's acts -/

/-- A step performs the decoded command: when the host's next act is a command that decodes to i, the step is exec of i on the
state whose port has moved past it; withFetchWord puts a command there. The form of the port is the model's choice (log entry 3). -/
def Obligations.StepPerformsDecodedCommand : Prop :=
  (∀ (s : State) (cmd : Command) (rest : List HostEvent) (i : Instr),
    s.params.wf = true → s.port = .command cmd :: rest → decode cmd = .command i →
    step s = exec i { s with port := rest }) ∧
  ∀ (s : State) (nbits w : Nat) (i : Instr),
    s.params.wf = true → decodeTableWord nbits w = some i → step (s.withFetchWord nbits w) = exec i s

/-- R152 (with R54): a command with a reserved opcode completes with ILLEGAL_OPCODE, KIND NONE, FLAG 0 and RESULT 0, and changes
nothing else; so does the step that performs it. -/
def Obligations.ReservedOpcodeRaisesIllegalOpcode : Prop :=
  ∀ (s : State) (cmd : Command), (cmd[0]).toNat = 0x00 ∨ 0x07 ≤ (cmd[0]).toNat →
    perform cmd s = .next { s with out := ⟨true, ⟨.illegalOpcode, .none, false, 0⟩⟩ } ∧
    ∀ rest, s.params.wf = true → s.port = .command cmd :: rest →
      step s = .next { s with out := ⟨true, ⟨.illegalOpcode, .none, false, 0⟩⟩, port := rest }

/-- R11: a step is refused for its parameters exactly when PERM is no bijection or the regression anchor fails. -/
def Obligations.RefusedExactlyForIllFormedParameters : Prop :=
  ∀ s : State, step s = .refused .illFormedParameters ↔
    ¬ ((∀ i j : Fin 8, s.params.perm.get i = s.params.perm.get j → i = j) ∧
       deobfuscate s.params #v[8, 7, 6, 5, 4, 3, 2, 1] #v[1, 2, 3, 4, 5, 6, 7, 8] =
         #v[29, 25, 234, 11, 153, 45, 237, 42])

/-- From R23: every command writes all of OUT and sets VALID, whatever the latch held; after reset VALID = 0; a host read while
VALID = 0 is a fault. That a read of a valid latch is a step of its own, which delivers the eleven bytes and changes only the port,
is the model's choice (log entry 11, DESIGN CHOICE). -/
def Obligations.OutputLatch : Prop :=
  (∀ (cmd : Command) (s : State), ∃ r : Response, ∃ t, perform cmd s = .next t ∧ t.out = ⟨true, r⟩ ∧
    ∀ o : Out, ∃ u, perform cmd { s with out := o } = .next u ∧ u.out = ⟨true, r⟩) ∧
  State.reset.out.valid = false ∧
  (∀ s rest, s.params.wf = true → s.port = .readOut :: rest → s.out.valid = false →
    s.out.read = .error .outNotValid ∧ step s = .fault .outNotValid) ∧
  (∀ s rest, s.params.wf = true → s.port = .readOut :: rest → s.out.valid = true →
    s.out.read = .ok s.out.resp.bytes ∧ step s = .next { s with port := rest })

/-- From R170: a reset clears KEYED and OUT.VALID and leaves the constants, and a command issued but not begun is lost, whatever it
is. That the reset is a host event which carries the lost command, and that the host's later acts follow it (`t.port = rest`), is
the model's choice (log entry 9, DESIGN CHOICE). SECRET is unspecified and not mentioned. -/
def Obligations.ResetEvent : Prop :=
  ∀ (s : State) (lost : Option Command) (rest : List HostEvent),
    s.params.wf = true → s.port = .reset lost :: rest →
    ∃ t, step s = .next t ∧ t.keyed = false ∧ t.out.valid = false ∧ t.params = s.params ∧ t.port = rest ∧
      ∀ lost', step { s with port := .reset lost' :: rest } = .next t

/-- R31: after reset KEYED = 0, OUT.VALID = 0, OUT's fields have no value to read, and the constants hold. The default values of
PERM, KCONST and MEAS_FLOAT are those of R7 to R9 (log entries 5 and 6). -/
def Obligations.ResetState : Prop :=
  State.reset.keyed = false ∧ State.reset.out.valid = false ∧ State.reset.out.read = .error .outNotValid ∧
  State.reset.params.perm = #v[2, 4, 0, 7, 1, 6, 5, 3] ∧
  State.reset.params.kconst = #v[0x48, 0x74, 0x65, 0x6D, 0x70, 0x39, 0x39, 0x65] ∧
  keystream State.reset.params.kconst = #v[0x84, 0x47, 0x56, 0xD6, 0x07, 0x93, 0x93, 0x56] ∧
  State.reset.params.measFloat = .binary64 ∧
  Config.marker = 0x0D ∧ Config.tagTemperature = 0x42 ∧ Config.tagHumidity = 0x44 ∧ Config.tagCO2 = 0x50

/-- R171: right after reset, under any parameters, TESTOBF, VALIDATE and CLASSIFY work; DEOBF and DECODE give NO_KEY; after the
first SETKEY they do not. -/
def Obligations.FirstCommandsAfterReset : Prop :=
  ∀ (p : Params) (op key : Bytes8),
    (∃ t, exec (.testobf op) (State.powerOn p) = .next t ∧ t.out.resp.status = .ok) ∧
    (∃ t, exec (.validate op) (State.powerOn p) = .next t ∧ t.out.resp.status = validate op) ∧
    (∃ t, exec (.classify op) (State.powerOn p) = .next t ∧ t.out.resp.status = .ok) ∧
    (∃ t, exec (.deobf op) (State.powerOn p) = .next t ∧ t.out.resp.status = .noKey) ∧
    (∃ t, exec (.decode op) (State.powerOn p) = .next t ∧ t.out.resp.status = .noKey) ∧
    ∃ t, exec (.setkey key) (State.powerOn p) = .next t ∧
      (∃ u, exec (.deobf op) t = .next u ∧ u.out.resp.status = .ok) ∧
      (∃ u, exec (.decode op) t = .next u ∧ u.out.resp.status ≠ .noKey)

/-- With nothing from the host the block holds its state (the model's choice, log entry 4). -/
def Obligations.IdleStepChangesNothing : Prop :=
  ∀ s : State, s.params.wf = true → s.port = [] → step s = .next s

/-! ### The six commands: result, frame and completion in one equation each -/

/-- R141: SETKEY, OPC 0x01. Unkeyed: SECRET becomes the operand, KEYED 1, the response OK; keyed: KEY_LOCKED and nothing else
changes; no command of a keyed block, SETKEY included, gives it another secret. -/
def Obligations.SetkeyCommand : Prop :=
  (∀ cmd : Command, cmd[0] = 0x01 → decode cmd = .command (.setkey (Command.operand cmd))) ∧
  (∀ (op : Bytes8) (s : State), s.keyed = false →
    exec (.setkey op) s =
      .next { s with secret := op, keyed := true, out := ⟨true, ⟨.ok, .none, false, 0⟩⟩ }) ∧
  (∀ (op : Bytes8) (s : State), s.keyed = true →
    exec (.setkey op) s = .next { s with out := ⟨true, ⟨.keyLocked, .none, false, 0⟩⟩ }) ∧
  ∀ (cmd : Command) (s t : State), s.keyed = true → perform cmd s = .next t → t.secret = s.secret ∧ t.keyed = true

/-- R79: DEOBF, OPC 0x02. Keyed: RESULT lane i is byte i of the deobfuscated frame, status OK; unkeyed: NO_KEY; nothing else
changes. -/
def Obligations.DeobfCommand : Prop :=
  (∀ cmd : Command, cmd[0] = 0x02 → decode cmd = .command (.deobf (Command.operand cmd))) ∧
  (∀ (op : Bytes8) (s : State), s.keyed = true →
    ∃ w : Word64, (∀ i : Fin 8, w.extractLsb' (8 * i.val) 8 = (deobfuscate s.params s.secret op).get i) ∧
      exec (.deobf op) s = .next { s with out := ⟨true, ⟨.ok, .none, false, w⟩⟩ }) ∧
  ∀ (op : Bytes8) (s : State), s.keyed = false →
    exec (.deobf op) s = .next { s with out := ⟨true, ⟨.noKey, .none, false, 0⟩⟩ }

/-- R92: TESTOBF, OPC 0x03. FLAG is 1 exactly when lane 4 is not 0x0D, keyed or not; nothing but OUT changes. -/
def Obligations.TestobfCommand : Prop :=
  (∀ cmd : Command, cmd[0] = 0x03 → decode cmd = .command (.testobf (Command.operand cmd))) ∧
  ∀ (op : Bytes8) (s : State),
    exec (.testobf op) s = .next { s with out := ⟨true, ⟨.ok, .none, decide (op[4] ≠ 0x0D), 0⟩⟩ }

/-- R103 (with R100 and R101): VALIDATE, OPC 0x04. OK exactly when the sum of lanes 0 to 2 mod 256 is lane 3 and lane 4 is 0x0D,
else INVALID_FRAME, keyed or not; nothing but OUT changes. -/
def Obligations.ValidateCommand : Prop :=
  (∀ cmd : Command, cmd[0] = 0x04 → decode cmd = .command (.validate (Command.operand cmd))) ∧
  ∀ (op : Bytes8) (s : State),
    exec (.validate op) s = .next { s with out := ⟨true,
      ⟨if ((op[0]).toNat + (op[1]).toNat + (op[2]).toNat) % 256 = (op[3]).toNat ∧ op[4] = 0x0D then .ok else .invalidFrame,
        .none, false, 0⟩⟩ }

/-- R119 (with R111 to R114 and R116): CLASSIFY, OPC 0x05, by the tag in lane 0 and the value of lanes 1 and 2, in the block's
float format; nothing but OUT changes. -/
def Obligations.ClassifyCommand : Prop :=
  (∀ cmd : Command, cmd[0] = 0x05 → decode cmd = .command (.classify (Command.operand cmd))) ∧
  ∀ (op : Bytes8) (s : State) (v : BitVec 16), v.toNat = (op[1]).toNat * 256 + (op[2]).toNat →
    let f := s.params.measFloat
    (op[0] = 0x42 → exec (.classify op) s = .next { s with out := ⟨true, ⟨.ok, .temperature, false,
      ((fsub f (fdiv f (toFloat f v) (fconst f ⟨16, 1⟩)) (fconst f ⟨27315, 100⟩)).bits f).setWidth 64⟩⟩ }) ∧
    (op[0] = 0x44 → exec (.classify op) s = .next { s with out := ⟨true, ⟨.ok, .humidity, false,
      ((fdiv f (toFloat f v) (fconst f ⟨100, 1⟩)).bits f).setWidth 64⟩⟩ }) ∧
    (op[0] = 0x50 → exec (.classify op) s = .next { s with out := ⟨true, ⟨.ok, .co2, false, v.setWidth 64⟩⟩ }) ∧
    (op[0] ≠ 0x42 → op[0] ≠ 0x44 → op[0] ≠ 0x50 →
      exec (.classify op) s = .next { s with out := ⟨true, ⟨.ok, .none, false, 0⟩⟩ })

/-- R132 and R130: DECODE, OPC 0x06. Keyed: the frame is deobfuscated exactly when byte 4 is not 0x0D, FLAG says so, the result is
validated and classified; unkeyed: NO_KEY; nothing but OUT changes. -/
def Obligations.DecodeCommand : Prop :=
  (∀ cmd : Command, cmd[0] = 0x06 → decode cmd = .command (.decode (Command.operand cmd))) ∧
  (∀ (raw plain : Bytes8) (s : State), s.keyed = true →
    plain = (if raw[4] ≠ 0x0D then deobfuscate s.params s.secret raw else raw) →
    (validate plain = .ok → exec (.decode raw) s = .next { s with out := ⟨true,
      ⟨.ok, kindOf (classify s.params.measFloat (recordOfFrame plain)), decide (raw[4] ≠ 0x0D),
        resultOf s.params.measFloat (classify s.params.measFloat (recordOfFrame plain))⟩⟩ }) ∧
    (validate plain ≠ .ok → exec (.decode raw) s = .next { s with out := ⟨true,
      ⟨.invalidFrame, .none, decide (raw[4] ≠ 0x0D), 0⟩⟩ })) ∧
  ∀ (raw : Bytes8) (s : State), s.keyed = false →
    exec (.decode raw) s = .next { s with out := ⟨true, ⟨.noKey, .none, false, 0⟩⟩ }

/-- R150: every command, reserved or not, completes in every state with a response; the constants and the port are untouched, and
SECRET and KEYED too unless it is the SETKEY of an unkeyed block. -/
def Obligations.EveryCommandCompletesWithinItsFrame : Prop :=
  ∀ (cmd : Command) (s : State), ∃ t, perform cmd s = .next t ∧ t.out.valid = true ∧
    t.params = s.params ∧ t.port = s.port ∧
    (cmd[0] ≠ 0x01 ∨ s.keyed = true → t.secret = s.secret ∧ t.keyed = s.keyed)

/-- R157: the status of every command, by the checks in their order. -/
def Obligations.StatusPrecedence : Prop :=
  ∀ (cmd : Command) (s : State), ∃ t, perform cmd s = .next t ∧
    t.out.resp.status =
      (if (cmd[0]).toNat = 0x00 ∨ 0x07 ≤ (cmd[0]).toNat then .illegalOpcode
       else if cmd[0] = 0x01 ∧ s.keyed = true then .keyLocked
       else if (cmd[0] = 0x02 ∨ cmd[0] = 0x06) ∧ s.keyed = false then .noKey
       else if (cmd[0] = 0x04 ∧ validate (Command.operand cmd) = .invalidFrame) ∨
               (cmd[0] = 0x06 ∧
                 validate (plaintext s.params s.secret (Command.operand cmd)) = .invalidFrame) then .invalidFrame
       else .ok)

/-- R26 (with R131): FLAG after every command: the heuristic's verdict for TESTOBF, the path taken for a DECODE that runs, 0 for
every other and for every refused command. -/
def Obligations.FlagOfEveryCommand : Prop :=
  ∀ (cmd : Command) (s : State), ∃ t, perform cmd s = .next t ∧
    t.out.resp.flag =
      decide ((cmd[0] = 0x03 ∨ cmd[0] = 0x06 ∧ s.keyed = true) ∧ (Command.operand cmd)[4] ≠ 0x0D)

/-- R53: the lanes a command ignores have no effect at any value. -/
def Obligations.IgnoredLanesHaveNoEffect : Prop :=
  ∀ (op op' : Bytes8) (s : State),
    (op[4] = op'[4] → exec (.testobf op) s = exec (.testobf op') s) ∧
    (op[0] = op'[0] → op[1] = op'[1] → op[2] = op'[2] → op[3] = op'[3] → op[4] = op'[4] →
      exec (.validate op) s = exec (.validate op') s) ∧
    (op[0] = op'[0] → op[1] = op'[1] → op[2] = op'[2] → exec (.classify op) s = exec (.classify op') s) ∧
    ∀ opc : Byte, reservedOpcode opc = true → perform (Command.make opc op) s = perform (Command.make opc op') s

/-! ### The Deobfuscator -/

/-- R71 to R75: the five steps, index by index, in integer arithmetic. The direction of step 1, scatter, is a reading: R71 takes it
by decision D10 where the source gives none (log entry 8, DEDUCED). -/
def Obligations.DeobfuscateStepByStep : Prop :=
  ∀ (p : Params) (s f : Bytes8), (∀ i j : Fin 8, p.perm.get i = p.perm.get j → i = j) →
    ∃ pb mb rb ks : Bytes8,
      (∀ i : Fin 8, pb.get (p.perm.get i) = f.get i) ∧
      (∀ i : Fin 8, mb.get i = pb.get i ^^^ s.get i) ∧
      (∀ i : Fin 8, (rb.get i).toNat =
        (((mb.get i).toNat >>> 3) ||| ((mb.get ⟨(i.val + 7) % 8, Nat.mod_lt _ (by decide)⟩).toNat <<< 5)) &&& 0xFF) ∧
      (∀ i : Fin 8, (ks.get i).toNat = (((p.kconst.get i).toNat >>> 4) ||| ((p.kconst.get i).toNat <<< 4)) &&& 0xFF) ∧
      ∀ i : Fin 8, ((deobfuscate p s f).get i).toNat = (256 + (rb.get i).toNat - (ks.get i).toNat) % 256

/-- R76: step 3 as a whole is a rotation of the 64-bit word MB[0] ‖ ... ‖ MB[7] right by 3 bits. -/
def Obligations.ShiftMergeIsWordRotation : Prop :=
  ∀ mb : Bytes8,
    let word (b : Bytes8) : BitVec 64 :=
      (b[0] ++ b[1] ++ b[2] ++ b[3] ++ b[4] ++ b[5] ++ b[6] ++ b[7]).setWidth 64
    word (shiftMerge mb) = (word mb >>> 3) ||| (word mb <<< 61)

/-- R77: an error in bits 7:3 of MB[j] changes exactly O[j], one in bits 2:0 exactly O[j+1 mod 8]; an error in F[i] changes only
MB[PERM[i]] and so at most O[PERM[i]] and O[PERM[i]+1 mod 8]. -/
def Obligations.ErrorLocality : Prop :=
  (∀ (mb mb' ks : Bytes8) (j : Fin 8), (∀ k, k ≠ j → mb.get k = mb'.get k) → mb.get j ≠ mb'.get j →
    (mb.get j &&& 0x07 = mb'.get j &&& 0x07 →
      ∀ k, (combine (shiftMerge mb) ks).get k ≠ (combine (shiftMerge mb') ks).get k ↔ k = j) ∧
    (mb.get j &&& 0xF8 = mb'.get j &&& 0xF8 →
      ∀ k, (combine (shiftMerge mb) ks).get k ≠ (combine (shiftMerge mb') ks).get k ↔ k = j + 1)) ∧
  ∀ (p : Params) (s f f' : Bytes8) (i : Fin 8), (∀ a b : Fin 8, p.perm.get a = p.perm.get b → a = b) →
    (∀ k, k ≠ i → f.get k = f'.get k) →
    (∀ k, k ≠ p.perm.get i → (mixedBuffer p s f).get k = (mixedBuffer p s f').get k) ∧
    ∀ k, k ≠ p.perm.get i → k ≠ p.perm.get i + 1 → (deobfuscate p s f).get k = (deobfuscate p s f').get k

/-- R78: a mask put into the secret and, through PERM, into the frame cancels; in particular the secret itself can be moved into
the frame; with the default PERM and KCONST all-ones and all-zeros give the same bytes, those of V2. -/
def Obligations.SecretCancellation : Prop :=
  (∀ (p : Params) (s f mask : Bytes8), (∀ i j : Fin 8, p.perm.get i = p.perm.get j → i = j) →
    deobfuscate p (buffer fun i => s.get i ^^^ mask.get i) (buffer fun i => f.get i ^^^ mask.get (p.perm.get i)) =
      deobfuscate p s f ∧
    deobfuscate p s f =
      deobfuscate p (buffer fun _ => 0) (buffer fun i => f.get i ^^^ s.get (p.perm.get i))) ∧
  deobfuscate Params.default (buffer fun _ => 0xFF) (buffer fun _ => 0xFF) =
    #v[0x7C, 0xB9, 0xAA, 0x2A, 0xF9, 0x6D, 0x6D, 0xAA] ∧
  deobfuscate Params.default (buffer fun _ => 0) (buffer fun _ => 0) = #v[0x7C, 0xB9, 0xAA, 0x2A, 0xF9, 0x6D, 0x6D, 0xAA]

/-- R80: for every secret, `deobfuscate` is a bijection on frames and `obfuscate` is its inverse. -/
def Obligations.ObfuscateInvertsDeobfuscate : Prop :=
  ∀ (p : Params) (s : Bytes8), (∀ i j : Fin 8, p.perm.get i = p.perm.get j → i = j) →
    (∀ o : Bytes8, deobfuscate p s (obfuscate p s o) = o) ∧
    (∀ f : Bytes8, obfuscate p s (deobfuscate p s f) = f)

/-- R7, R8, R11: the default parameters are well formed, the default PERM is its own inverse, and for every PERM exactly one
KCONST passes the anchor; for the default PERM it is the default KCONST. -/
def Obligations.AnchorFixesTheConstant : Prop :=
  Params.default.wf = true ∧
  (∀ i : Fin 8, Params.default.perm.get (Params.default.perm.get i) = i) ∧
  (∀ p : Params, ∃ k : Bytes8, ∀ k' : Bytes8, ({ p with kconst := k' } : Params).anchorHolds = true ↔ k' = k) ∧
  ∀ k : Bytes8, ({ Params.default with kconst := k } : Params).anchorHolds = true ↔ k = Params.default.kconst

/-! ### Heuristic, validator, pipeline -/

/-- R90, R91: the heuristic is false exactly when byte 4 is 0x0D, and depends on byte 4 alone. -/
def Obligations.HeuristicReadsByteFour : Prop :=
  (∀ f : Bytes8, looksObfuscated f = false ↔ f[4] = 0x0D) ∧
  ∀ f g : Bytes8, f[4] = g[4] → looksObfuscated f = looksObfuscated g

/-- R100, R101: the checksum is the sum mod 256, and validation succeeds exactly when it is byte 3 and byte 4 is 0x0D, with one
error kind otherwise. -/
def Obligations.ValidationIsBothChecks : Prop :=
  ∀ f : Bytes8,
    (checksum f).toNat = ((f[0]).toNat + (f[1]).toNat + (f[2]).toNat) % 256 ∧
    (validate f = .ok ↔ checksum f = f[3] ∧ f[4] = 0x0D) ∧
    (validate f = .invalidFrame ↔ ¬ (checksum f = f[3] ∧ f[4] = 0x0D))

/-- R102: bytes 5 to 7 never matter, and changing any single bit of bytes 0 to 3 of a valid frame makes it fail. -/
def Obligations.ValidationDetectsSingleBitFlips : Prop :=
  (∀ f g : Bytes8, (∀ i : Fin 8, i.val ≤ 4 → f.get i = g.get i) → validate f = validate g) ∧
  ∀ (f : Bytes8) (i : Fin 8) (k : Fin 8), validate f = .ok → i.val ≤ 3 →
    validate (buffer fun j => if j = i then f.get j ^^^ (1#8 <<< k.val) else f.get j) = .invalidFrame

/-- R133: the double use of the heuristic. A raw frame with byte 4 = 0x0D is never deobfuscated and is rejected unless its raw
checksum holds; any other is deobfuscated and rejected unless the result has byte 4 = 0x0D and its checksum holds. -/
def Obligations.HeuristicIsUsedTwice : Prop :=
  ∀ (raw : Bytes8) (s : State), s.keyed = true →
    ∃ t, exec (.decode raw) s = .next t ∧
    (raw[4] = 0x0D → t.out.resp.flag = false ∧
      (t.out.resp.status = .invalidFrame ↔ checksum raw ≠ raw[3])) ∧
    (raw[4] ≠ 0x0D → t.out.resp.flag = true ∧
      (t.out.resp.status = .invalidFrame ↔
        ((deobfuscate s.params s.secret raw)[4] ≠ 0x0D ∨
         checksum (deobfuscate s.params s.secret raw) ≠ (deobfuscate s.params s.secret raw)[3])))

/-- R135: a DECODE yields one Measurement exactly when the validated frame's tag is recognized, else none. -/
def Obligations.DecodeYieldsAtMostOneMeasurement : Prop :=
  ∀ (raw : Bytes8) (s : State), s.keyed = true →
    ∃ t, exec (.decode raw) s = .next t ∧
      let plain := plaintext s.params s.secret raw
      t.out.resp.measurements =
        if validate plain = .ok ∧ (plain[0] = 0x42 ∨ plain[0] = 0x44 ∨ plain[0] = 0x50) then 1 else 0

/-- R162, R130: DECODE answers what a host obtains by issuing TESTOBF, DEOBF when the flag is set, VALIDATE and CLASSIFY one after
the other. -/
def Obligations.DecodeRefinesTheSingleCommands : Prop :=
  ∀ (raw : Bytes8) (s : State), s.keyed = true →
    ∃ s1 s2 s3 s4 t : State,
      exec (.testobf raw) s = .next s1 ∧
      exec (.deobf raw) s1 = .next s2 ∧
      (let plain := if s1.out.resp.flag then resultLanes s2.out.resp.result else raw
       exec (.validate plain) s2 = .next s3 ∧ exec (.classify plain) s3 = .next s4) ∧
      exec (.decode raw) s = .next t ∧
      t = { s4 with out := ⟨true,
        if s3.out.resp.status = .ok then { s4.out.resp with flag := s1.out.resp.flag }
        else ⟨s3.out.resp.status, .none, s1.out.resp.flag, 0⟩⟩ }

/-! ### Floating point -/

/-- R14: to_float is exact, and f_div, f_sub and fconst round the exact result to nearest, ties to even, for every value of either
format. -/
def Obligations.FloatOperationsRoundToNearestEven : Prop :=
  (∀ (fmt : MeasFloat) (n : BitVec 16), (toFloat fmt n).Representable fmt ∧ (toFloat fmt n).rat = (n.toNat : ℚ)) ∧
  (∀ (fmt : MeasFloat) (d : Frac), 0 < d.den → (fconst fmt d).NearestEven fmt d.rat) ∧
  (∀ (fmt : MeasFloat) (a b : Fp), b.mant ≠ 0 → (fdiv fmt a b).NearestEven fmt (a.rat / b.rat)) ∧
  (∀ (fmt : MeasFloat) (a b : Fp), (fsub fmt a b).NearestEven fmt (a.rat - b.rat))

/-- R14, R116: the bit pattern of a number is its IEEE 754 fields: sign, biased exponent and fraction; exponent zero for a
subnormal number. -/
def Obligations.BitPatternFields : Prop :=
  ∀ (fmt : MeasFloat) (x : Fp), x.Representable fmt → x.exp + (fmt.precision : Int) - 1 ≤ (fmt.bias : Int) →
    ((x.bits fmt).getLsbD (fmt.width - 1) = x.neg) ∧
    (2 ^ (fmt.precision - 1) ≤ x.mant →
      (((x.bits fmt).toNat / 2 ^ (fmt.precision - 1) % (2 * fmt.bias + 2) : Nat) : Int) =
        x.exp + (fmt.precision : Int) - 1 + (fmt.bias : Int) ∧
      (x.bits fmt).toNat % 2 ^ (fmt.precision - 1) = x.mant - 2 ^ (fmt.precision - 1)) ∧
    (x.mant < 2 ^ (fmt.precision - 1) →
      (x.bits fmt).toNat / 2 ^ (fmt.precision - 1) % (2 * fmt.bias + 2) = 0 ∧
      (x.bits fmt).toNat % 2 ^ (fmt.precision - 1) = x.mant)

/-- R115: the constants' patterns in both formats. -/
def Obligations.FloatConstants : Prop :=
  ((fconst .binary64 ⟨27315, 100⟩).bits .binary64).toNat = 0x4071126666666666 ∧
  ((fconst .binary32 ⟨27315, 100⟩).bits .binary32).toNat = 0x43889333 ∧
  ∀ fmt : MeasFloat, (fconst fmt ⟨16, 1⟩).rat = 16 ∧ (fconst fmt ⟨100, 1⟩).rat = 100

/-- R115: division by 16 is exact; no result is NaN, infinite, subnormal or -0; a temperature is never 0; humidity 0 comes from
raw 0 alone and is +0. The ranges hold up to one rounding (log entry 13). -/
def Obligations.ConversionResultsAreFiniteNormal : Prop :=
  ∀ (fmt : MeasFloat) (v : BitVec 16),
    (fdiv fmt (toFloat fmt v) (fconst fmt ⟨16, 1⟩)).rat = (v.toNat : ℚ) / 16 ∧
    (let x := temperatureOf fmt v
     2 ^ (fmt.precision - 1) ≤ x.mant ∧ x.exp + (fmt.precision : Int) - 1 ≤ (fmt.bias : Int) ∧
     -273.15 ≤ x.rat ∧ x.rat ≤ 3822.7876) ∧
    (let x := humidityOf fmt v
     (v = 0 → x.bits fmt = 0) ∧
     (v ≠ 0 → x.neg = false ∧ 2 ^ (fmt.precision - 1) ≤ x.mant ∧
       x.exp + (fmt.precision : Int) - 1 ≤ (fmt.bias : Int) ∧ x.rat ≤ 655.3501))

/-! ### Invariants, order, isolation, safety -/

/-- Every step keeps the invariant of the machine. -/
def Obligations.EveryStepKeepsTheInvariant : Prop :=
  ∀ s t : State, s.Inv → step s = .next t → t.Inv

/-- The invariant holds right after reset. -/
def Obligations.InvariantHoldsAtReset : Prop := State.reset.Inv

/-- R25, R49, R170: no step writes the constants. -/
def Obligations.ConstantsAreNeverWritten : Prop :=
  ∀ s t : State, step s = .next t → t.params = s.params

/-- R21, R22: a step that is no reset changes SECRET or KEYED only by performing a SETKEY while KEYED = 0. -/
def Obligations.SecretIsWrittenOnlyByTheFirstSetkey : Prop :=
  ∀ (s t : State) (e : HostEvent) (rest : List HostEvent), s.port = e :: rest → (∀ lost, e ≠ .reset lost) →
    step s = .next t →
    (t.secret = s.secret ∧ t.keyed = s.keyed) ∨
    (∃ cmd op, e = .command cmd ∧ decode cmd = .command (.setkey op) ∧ s.keyed = false ∧ t.keyed = true ∧ t.secret = op)

/-- R30: from a keyed state, through any run without a reset, SECRET and KEYED never change. -/
def Obligations.SecretIsFixedBetweenResets : Prop :=
  ∀ (k : Nat) (s t : State), s.keyed = true → noReset s.port = true → runs k s = .next t →
    t.secret = s.secret ∧ t.keyed = true

/-- R29, R31: while KEYED = 0 the content of SECRET cannot be observed: two states that differ in it alone run alike, however long,
and differ in it alone until a SETKEY or for ever. -/
def Obligations.UnloadedSecretCannotBeObserved : Prop :=
  ∀ (k : Nat) (s : State) (x : Bytes8), s.keyed = false →
    (∀ t, runs k s = .next t →
      ∃ y, runs k { s with secret := x } = .next { t with secret := y } ∧ (t.keyed = true → y = t.secret)) ∧
    (∀ f, runs k s = .fault f → runs k { s with secret := x } = .fault f) ∧
    (∀ r, runs k s = .refused r → runs k { s with secret := x } = .refused r)

/-- R156, R134: no command depends on the response the latch held before it: no status is sticky and no earlier frame is
remembered. -/
def Obligations.NoStatusIsSticky : Prop :=
  ∀ (cmd : Command) (s : State) (o : Out), perform cmd { s with out := o } = perform cmd s

/-- R46: a command other than SETKEY is idempotent on the state, and SETKEY is so after its first success, the second one being
refused. -/
def Obligations.CommandsAreIdempotent : Prop :=
  (∀ (i : Instr) (s t : State), (∀ op, i ≠ .setkey op) → exec i s = .next t → exec i t = .next t) ∧
  ∀ (op : Bytes8) (s t : State), exec (.setkey op) s = .next t →
    ∃ u, exec (.setkey op) t = .next u ∧ u.out.resp.status = .keyLocked ∧ u.secret = t.secret ∧ u.keyed = t.keyed ∧
      exec (.setkey op) u = .next u

/-- R47: a run over a list of host events serves them one at a time in their order, each seeing every effect of those before it and
none of those after it. -/
def Obligations.EventsTakeEffectInOrder : Prop :=
  ∀ (es rest : List HostEvent) (s : State), s.params.wf = true →
    runs es.length { s with port := es ++ rest } = serveAll es { s with port := rest }

/-- R23, R150: with well-formed parameters, the host's acts are such that it never reads an empty latch exactly when no run, of any
length, stops. -/
def Obligations.RunsStopOnlyAtAReadOfTheEmptyLatch : Prop :=
  ∀ s : State, s.params.wf = true →
    (s.Safe ↔ ∀ k, ∃ t, runs k s = .next t) ∧
    (¬ s.Safe → ∃ k, runs k s = .fault .outNotValid)
end

