-- ==== Sys2Proof/Laws/State.lean ====
section
/-! SUPPORT. One lemma per field per named update of the state, each true by rfl. -/

namespace Sys2Proof.Machine

@[simp] theorem respond_secret (s : State) (r : Response) : (s.respond r).secret = s.secret := rfl
@[simp] theorem respond_keyed (s : State) (r : Response) : (s.respond r).keyed = s.keyed := rfl
@[simp] theorem respond_out (s : State) (r : Response) : (s.respond r).out = ⟨true, r⟩ := rfl
@[simp] theorem respond_params (s : State) (r : Response) : (s.respond r).params = s.params := rfl
@[simp] theorem respond_port (s : State) (r : Response) : (s.respond r).port = s.port := rfl

@[simp] theorem loadSecret_secret (s : State) (x : Bytes8) : (s.loadSecret x).secret = x := rfl
@[simp] theorem loadSecret_keyed (s : State) (x : Bytes8) : (s.loadSecret x).keyed = true := rfl
@[simp] theorem loadSecret_out (s : State) (x : Bytes8) : (s.loadSecret x).out = s.out := rfl
@[simp] theorem loadSecret_params (s : State) (x : Bytes8) : (s.loadSecret x).params = s.params := rfl
@[simp] theorem loadSecret_port (s : State) (x : Bytes8) : (s.loadSecret x).port = s.port := rfl

@[simp] theorem resetBlock_keyed (s : State) : s.resetBlock.keyed = false := rfl
@[simp] theorem resetBlock_valid (s : State) : s.resetBlock.out.valid = false := rfl
@[simp] theorem resetBlock_params (s : State) : s.resetBlock.params = s.params := rfl
@[simp] theorem resetBlock_port (s : State) : s.resetBlock.port = s.port := rfl

@[simp] theorem powerOn_keyed (p : Params) : (State.powerOn p).keyed = false := rfl
@[simp] theorem powerOn_valid (p : Params) : (State.powerOn p).out.valid = false := rfl
@[simp] theorem powerOn_params (p : Params) : (State.powerOn p).params = p := rfl
@[simp] theorem powerOn_port (p : Params) : (State.powerOn p).port = [] := rfl

/-- A second response replaces the first whole (R23). -/
@[simp] theorem respond_respond (s : State) (r r' : Response) : (s.respond r).respond r' = s.respond r' := rfl

end Sys2Proof.Machine
end

