-- ==== Sys2Proof/Laws/Ops.lean ====
section
/-! SUPPORT. What each shared operation can do, said once: completing, raising, reading OUT, serving an event, stepping. -/

namespace Sys2Proof.Machine

/-- `complete` answers exactly the state with the response latched. -/
theorem complete_next {r : Response} {s t : State} : complete r s = .next t ↔ t = s.respond r := by
  simp [complete, eq_comm]

/-- `raise` answers exactly the state with the error response latched. -/
theorem raiseStatus_next {x : Status} {s t : State} : raiseStatus x s = .next t ↔ t = s.respond (raised x) :=
  complete_next

/-- A host read answers the same state while VALID = 1. -/
theorem hostRead_valid {s : State} (h : s.out.valid = true) : hostRead s = .next s := by
  simp [hostRead, Out.read, h]

/-- A host read faults while VALID = 0. -/
theorem hostRead_empty {s : State} (h : s.out.valid = false) : hostRead s = .fault .outNotValid := by
  simp [hostRead, Out.read, h]

/-- A performed command is a decoded one or a reserved one. -/
theorem perform_cases (cmd : Command) (s : State) :
    (∃ i, decode cmd = .command i ∧ perform cmd s = exec i s) ∨
    (∃ e, decode cmd = .rejected e ∧ perform cmd s = execReserved s) := by
  cases h : decode cmd with
  | command i => exact .inl ⟨i, rfl, by simp [perform, h]⟩
  | rejected e => exact .inr ⟨e, rfl, by simp [perform, h]⟩

/-- What serving an event is: performing a command, resetting the block, or a read of OUT. -/
theorem serve_cases (e : HostEvent) (s : State) :
    (∃ cmd, e = .command cmd ∧ serve e s = perform cmd s) ∨
    (∃ lost, e = .reset lost ∧ serve e s = .next s.resetBlock) ∨
    (e = .readOut ∧ serve e s = hostRead s) := by
  cases e <;> simp [serve]

/-- A host read that goes on changes nothing. -/
theorem hostRead_next {s t : State} (h : hostRead s = .next t) : t = s := by
  cases hv : s.out.valid with
  | false => rw [hostRead_empty hv] at h; cases h
  | true => rw [hostRead_valid hv] at h; cases h; rfl

/-- What a step does: refuse, idle, or serve the oldest event. -/
theorem step_cases (s : State) :
    (s.params.wf = false ∧ step s = .refused .illFormedParameters) ∨
    (s.params.wf = true ∧ s.port = [] ∧ step s = .next s) ∨
    (∃ e rest, s.params.wf = true ∧ s.port = e :: rest ∧ step s = serve e { s with port := rest }) := by
  cases hw : s.params.wf with
  | false => exact .inl ⟨rfl, by simp [step, hw]⟩
  | true =>
    cases hp : s.port with
    | nil => exact .inr (.inl ⟨rfl, rfl, by simp [step, hw, hp]⟩)
    | cons e rest => exact .inr (.inr ⟨e, rest, rfl, rfl, by simp [step, hw, hp]⟩)

end Sys2Proof.Machine
end

