-- ==== Sys2Proof/Laws/Commands.lean ====
section
/-! SUPPORT. The response each command latches, and the one lemma that says everything a command can do. -/

namespace Sys2Proof.Machine

/-- The response of a decoded command, as a function of what it reads. -/
def responseOf (i : Instr) (p : Params) (keyed : Bool) (secret : Bytes8) : Response :=
  match i with
  | .setkey _ => if keyed then raised .keyLocked else ⟨.ok, .none, false, 0⟩
  | .deobf op => if keyed then ⟨.ok, .none, false, laneWord (deobfuscate p secret op)⟩ else raised .noKey
  | .testobf op => ⟨.ok, .none, looksObfuscated op, 0⟩
  | .validate op => ⟨Machine.validate op, .none, false, 0⟩
  | .classify op => classifyResponse p.measFloat (recordOfFrame op) false
  | .decode op => if keyed then decodeFrame p secret op else raised .noKey

/-- The registers after a decoded command: only a SETKEY of an unkeyed block writes them (R21, R22). -/
def loadedBy (i : Instr) (s : State) : State :=
  match i with
  | .setkey op => if s.keyed then s else s.loadSecret op
  | _ => s

/-- Every decoded command answers a next state: its register writes, then its response. -/
theorem exec_eq (i : Instr) (s : State) :
    exec i s = .next ((loadedBy i s).respond (responseOf i s.params s.keyed s.secret)) := by
  cases i <;> cases h : s.keyed <;>
    simp [exec, execSetkey, execDeobf, execTestobf, execValidate, execClassify, execDecode, complete, raiseStatus,
      responseOf, loadedBy, h, frameOperand, secretOperand, recordOperand, clearedFlag, testobfFlag]

/-- A command never touches the constants. -/
@[simp] theorem loadedBy_params (i : Instr) (s : State) : (loadedBy i s).params = s.params := by
  cases i <;> simp [loadedBy]; split <;> simp

/-- A command never touches the port. -/
@[simp] theorem loadedBy_port (i : Instr) (s : State) : (loadedBy i s).port = s.port := by
  cases i <;> simp [loadedBy]; split <;> simp

/-- A command does not touch the latch before it responds. -/
@[simp] theorem loadedBy_out (i : Instr) (s : State) : (loadedBy i s).out = s.out := by
  cases i <;> simp [loadedBy]; split <;> simp

/-- A keyed block keeps its registers (R30). -/
theorem loadedBy_keyed {i : Instr} {s : State} (h : s.keyed = true) : loadedBy i s = s := by
  cases i <;> simp [loadedBy, h]

/-- The registers change only by a SETKEY of an unkeyed block (R21, R22). -/
theorem loadedBy_cases (i : Instr) (s : State) :
    loadedBy i s = s ∨ ∃ op, i = .setkey op ∧ s.keyed = false ∧ loadedBy i s = s.loadSecret op := by
  cases i with
  | setkey op => cases h : s.keyed <;> simp [loadedBy, h]
  | _ => exact .inl rfl

/-- A frame is valid or it is rejected with the one error kind (R101). -/
theorem validate_cases (f : Bytes8) : Machine.validate f = .ok ∨ Machine.validate f = .invalidFrame := by
  unfold Machine.validate
  split
  · exact .inr rfl
  · exact .inl rfl

/-- A performed command: register writes and a response, of the decoded command or of `raise ILLEGAL_OPCODE`. -/
theorem perform_eq (cmd : Command) (s : State) :
    (∃ i, decode cmd = .command i ∧
      perform cmd s = .next ((loadedBy i s).respond (responseOf i s.params s.keyed s.secret))) ∨
    (∃ e, decode cmd = .rejected e ∧ perform cmd s = .next (s.respond (raised .illegalOpcode))) := by
  obtain ⟨i, hd, h⟩ | ⟨e, hd, h⟩ := perform_cases cmd s
  · exact .inl ⟨i, hd, by rw [h, exec_eq]⟩
  · exact .inr ⟨e, hd, by rw [h]; rfl⟩

/-- Every performed command, reserved or not, answers a next state with a response latched. -/
theorem perform_next (cmd : Command) (s : State) :
    ∃ t, perform cmd s = .next t ∧ t.out.valid = true := by
  obtain ⟨i, -, h⟩ | ⟨e, -, h⟩ := perform_cases cmd s
  · exact ⟨_, by rw [h, exec_eq], rfl⟩
  · exact ⟨s.respond (raised .illegalOpcode), by rw [h]; rfl, rfl⟩

/-- Serving an event that goes on leaves the constants (R25, R170). -/
theorem serve_params {e : HostEvent} {s t : State} (h : serve e s = .next t) : t.params = s.params := by
  obtain ⟨cmd, -, hs⟩ | ⟨lost, -, hs⟩ | ⟨-, hs⟩ := serve_cases e s <;> rw [hs] at h
  · obtain ⟨i, -, hp⟩ | ⟨_, -, hp⟩ := perform_eq cmd s <;> rw [hp] at h <;> cases h <;> simp
  · cases h; rfl
  · rw [hostRead_next h]

/-- Serving an event that goes on leaves what the host does next. -/
theorem serve_port {e : HostEvent} {s t : State} (h : serve e s = .next t) : t.port = s.port := by
  obtain ⟨cmd, -, hs⟩ | ⟨lost, -, hs⟩ | ⟨-, hs⟩ := serve_cases e s <;> rw [hs] at h
  · obtain ⟨i, -, hp⟩ | ⟨_, -, hp⟩ := perform_eq cmd s <;> rw [hp] at h <;> cases h <;> simp
  · cases h; rfl
  · rw [hostRead_next h]

end Sys2Proof.Machine
end

