-- ==== Sys2Proof/Laws/Encoding.lean ====
section
/-! SUPPORT. The fields of an assembled command, and the shape of decoding. -/

namespace Sys2Proof

@[simp] theorem make_opc (opc : Byte) (op : Bytes8) : Command.opc (Command.make opc op) = opc := rfl

/-- Assembling a command keeps every operand lane. -/
theorem make_operand (opc : Byte) (op : Bytes8) : Command.operand (Command.make opc op) = op := by
  apply Vector.ext
  intro i hi
  interval_cases i <;> rfl

/-- A command is its opcode and its operand lanes. -/
theorem make_of_parts (cmd : Command) : Command.make (Command.opc cmd) (Command.operand cmd) = cmd := by
  apply Vector.ext
  intro i hi
  interval_cases i <;> rfl

/-- Bytes that are not nine are rejected with their number. -/
theorem decodeBytes_wrong_length {bs : List Byte} (h : bs.length ≠ 9) :
    decodeBytes bs = .rejected (.notNineBytes bs.length) := by
  simp [decodeBytes, h]

end Sys2Proof
end

