-- ==== Sys2Proof/Laws/Float.lean ====
section
/-! SUPPORT. What the rounding operations do, said once: the binary exponent of a quotient, and rounding a quotient to the nearest
natural number. -/

namespace Sys2Proof.Machine

theorem precision_ge_two (fmt : MeasFloat) : 2 ≤ fmt.precision := by
  cases fmt <;> decide

/-- A power of two with an integer exponent, cleared of its denominator. -/
theorem scaled_le_iff (n d : Nat) (e : Int) :
    d * 2 ^ e.toNat ≤ n * 2 ^ (-e).toNat ↔ (d : ℚ) * 2 ^ e ≤ n := by
  rcases Int.le_total 0 e with h | h
  · obtain ⟨k, rfl⟩ := Int.eq_ofNat_of_zero_le h
    simp
    exact_mod_cast Iff.rfl
  · obtain ⟨k, hk⟩ := Int.eq_ofNat_of_zero_le (Int.neg_nonneg_of_nonpos h)
    obtain rfl : e = -(k : Int) := by omega
    have h2 : (0 : ℚ) < 2 ^ k := by positivity
    simp only [neg_neg, Int.toNat_natCast, Int.toNat_neg_natCast, pow_zero, mul_one, zpow_neg, zpow_natCast]
    rw [← div_eq_mul_inv, div_le_iff₀ h2]
    exact_mod_cast Iff.rfl

/-- The value of a quotient scaled by a power of two. -/
theorem scaled_div (n d : Nat) (e : Int) :
    ((n * 2 ^ (-e).toNat : Nat) : ℚ) / ((d * 2 ^ e.toNat : Nat) : ℚ) = (n : ℚ) / d / 2 ^ e := by
  rcases Int.le_total 0 e with h | h
  · obtain ⟨k, rfl⟩ := Int.eq_ofNat_of_zero_le h
    simp [div_div]
  · obtain ⟨k, hk⟩ := Int.eq_ofNat_of_zero_le (Int.neg_nonneg_of_nonpos h)
    obtain rfl : e = -(k : Int) := by omega
    simp [div_eq_mul_inv]
    ring

/-- `floorLog2 n d` is the binary exponent of n / d. -/
theorem floorLog2_spec {n d : Nat} (hn : n ≠ 0) (hd : d ≠ 0) :
    (2 : ℚ) ^ floorLog2 n d ≤ (n : ℚ) / d ∧ (n : ℚ) / d < 2 ^ (floorLog2 n d + 1) := by
  have hd0 : (0 : ℚ) < d := by exact_mod_cast Nat.pos_of_ne_zero hd
  have n1 : (2 : ℚ) ^ Nat.log2 n ≤ n := by exact_mod_cast Nat.log2_self_le hn
  have n2 : (n : ℚ) < 2 ^ (Nat.log2 n + 1) := by exact_mod_cast Nat.lt_log2_self
  have d1 : (2 : ℚ) ^ Nat.log2 d ≤ d := by exact_mod_cast Nat.log2_self_le hd
  have d2 : (d : ℚ) < 2 ^ (Nat.log2 d + 1) := by exact_mod_cast Nat.lt_log2_self
  have two : (2 : ℚ) ≠ 0 := by norm_num
  simp only [floorLog2, scaled_le_iff]
  set a : Int := (Nat.log2 n : Int) with ha
  set b : Int := (Nat.log2 d : Int) with hb
  have n1' : (2 : ℚ) ^ a ≤ n := by simpa [ha] using n1
  have n2' : (n : ℚ) < 2 ^ (a + 1) := by rw [zpow_add_one₀ two]; simpa [ha, pow_succ] using n2
  have d1' : (2 : ℚ) ^ b ≤ d := by simpa [hb] using d1
  have d2' : (d : ℚ) < 2 ^ (b + 1) := by rw [zpow_add_one₀ two]; simpa [hb, pow_succ] using d2
  split
  · rename_i h
    refine ⟨by rw [le_div_iff₀ hd0, mul_comm]; exact h, ?_⟩
    rw [div_lt_iff₀ hd0]
    calc (n : ℚ) < 2 ^ (a + 1) := n2'
      _ = 2 ^ (a - b + 1) * 2 ^ b := by rw [← zpow_add₀ two]; ring_nf
      _ ≤ 2 ^ (a - b + 1) * d := by gcongr
  · rename_i h
    refine ⟨?_, by rw [div_lt_iff₀ hd0, sub_add_cancel, mul_comm]; exact lt_of_not_ge h⟩
    rw [le_div_iff₀ hd0]
    calc (2 : ℚ) ^ (a - b - 1) * d ≤ 2 ^ (a - b - 1) * 2 ^ (b + 1) := by gcongr
      _ = 2 ^ a := by rw [← zpow_add₀ two]; ring_nf
      _ ≤ n := n1'

/-- `roundQuot n d` is within one half of n / d, and even when it is exactly one half away. -/
theorem roundQuot_spec (n : Nat) {d : Nat} (hd : 0 < d) :
    |(roundQuot n d : ℚ) - (n : ℚ) / d| ≤ 1 / 2 ∧
    (|(roundQuot n d : ℚ) - (n : ℚ) / d| = 1 / 2 → roundQuot n d % 2 = 0) := by
  have hd0 : (0 : ℚ) < d := by exact_mod_cast hd
  have hdiv : (n : ℚ) / d = (n / d : Nat) + ((n % d : Nat) : ℚ) / d := by
    have h : (n : ℚ) = d * (n / d : Nat) + (n % d : Nat) := by exact_mod_cast (Nat.div_add_mod n d).symm
    field_simp
    exact h
  have hr0 : (0 : ℚ) ≤ ((n % d : Nat) : ℚ) / d := by positivity
  have hr1 : ((n % d : Nat) : ℚ) / d < 1 := by
    rw [div_lt_one hd0]
    exact_mod_cast Nat.mod_lt n hd
  have hcmp : d < 2 * (n % d) ↔ 1 / 2 < ((n % d : Nat) : ℚ) / d := by
    rw [div_lt_div_iff₀ (by norm_num) hd0, one_mul, mul_comm]
    exact_mod_cast Iff.rfl
  have heq : 2 * (n % d) = d ↔ ((n % d : Nat) : ℚ) / d = 1 / 2 := by
    rw [div_eq_div_iff hd0.ne' (by norm_num), one_mul, mul_comm]
    exact_mod_cast Iff.rfl
  rw [hdiv]
  simp only [roundQuot, Bool.or_eq_true, decide_eq_true_eq, Bool.and_eq_true, beq_iff_eq, hcmp, heq]
  generalize n / d = q at *
  generalize ((n % d : Nat) : ℚ) / d = r at *
  split
  · rename_i h
    have hr : 1 / 2 ≤ r := by rcases h with h | h <;> linarith [h]
    rw [show ((q + 1 : Nat) : ℚ) - (q + r) = 1 - r by push_cast; ring, abs_of_nonneg (by linarith)]
    refine ⟨by linarith, fun he => ?_⟩
    rcases h with h | h
    · linarith
    · omega
  · rename_i h
    rw [not_or, not_and_or] at h
    rw [show (q : ℚ) - (q + r) = -r by ring, abs_neg, abs_of_nonneg hr0]
    refine ⟨by linarith [h.1], fun he => ?_⟩
    rcases h.2 with h' | h'
    · exact absurd he h'
    · omega

end Sys2Proof.Machine
end

