-- ==== Sys2Proof/Laws/PerInstr.lean ====
section
/-! SUPPORT. Per-instruction families: statements about an instruction as syntax, one lemma per constructor. -/

/-- The first byte of every encoded command is its opcode, and that opcode is not reserved (R52, R54). -/
def Sys2Proof.Laws.EncodeOpcode.Statement (i : Sys2Proof.Instr) : Prop :=
  Sys2Proof.Command.opc (Sys2Proof.encode i) = i.opcode ∧ Sys2Proof.reservedOpcode i.opcode = false

theorem Sys2Proof.Laws.EncodeOpcode.setkey (op : Sys2Proof.Bytes8) :
    Sys2Proof.Laws.EncodeOpcode.Statement (.setkey op) := ⟨rfl, rfl⟩

theorem Sys2Proof.Laws.EncodeOpcode.deobf (op : Sys2Proof.Bytes8) :
    Sys2Proof.Laws.EncodeOpcode.Statement (.deobf op) := ⟨rfl, rfl⟩

theorem Sys2Proof.Laws.EncodeOpcode.testobf (op : Sys2Proof.Bytes8) :
    Sys2Proof.Laws.EncodeOpcode.Statement (.testobf op) := ⟨rfl, rfl⟩

theorem Sys2Proof.Laws.EncodeOpcode.validate (op : Sys2Proof.Bytes8) :
    Sys2Proof.Laws.EncodeOpcode.Statement (.validate op) := ⟨rfl, rfl⟩

theorem Sys2Proof.Laws.EncodeOpcode.classify (op : Sys2Proof.Bytes8) :
    Sys2Proof.Laws.EncodeOpcode.Statement (.classify op) := ⟨rfl, rfl⟩

theorem Sys2Proof.Laws.EncodeOpcode.decode (op : Sys2Proof.Bytes8) :
    Sys2Proof.Laws.EncodeOpcode.Statement (.decode op) := ⟨rfl, rfl⟩
end

