-- ==== Sys2Proof/Laws/Runs.lean ====
section
/-! SUPPORT. The recursion of runs, and that runs are the host's runs. -/

namespace Sys2Proof.Machine

@[simp] theorem runs_zero (s : State) : runs 0 s = .next s := rfl

/-- A run of k + 1 steps is a step and then a run of k steps, unless the step stops. -/
theorem runs_succ (k : Nat) (s : State) :
    runs (k + 1) s =
      match step s with
      | .next t => runs k t
      | .fault f => .fault f
      | .refused r => .refused r := rfl

/-- The runs of the claims are the host's runs of the core. -/
theorem core_run_eq_runs (k : Nat) (s : State) : Host.Core.run Sys2Proof.core k s = runs k s := by
  induction k generalizing s with
  | zero => rfl
  | succ k ih =>
    have hs : ∀ o, step s = o → Host.Core.step Sys2Proof.core s = o := fun _ h => h
    cases h : step s with
    | next t =>
      have hr : runs (k + 1) s = runs k t := by rw [runs_succ, h]
      refine Eq.trans ?_ ((ih t).trans hr.symm)
      simp only [Host.Core.run, hs _ h]
    | fault f =>
      rw [runs_succ, h]
      simp only [Host.Core.run, hs _ h]
      rfl
    | refused r =>
      rw [runs_succ, h]
      simp only [Host.Core.run, hs _ h]
      rfl

end Sys2Proof.Machine
end

