-- ==== Sys2Proof/Tests/Slice0.lean ====
section
/-! SUPPORT. The model's own tests: decoding of words written out from R50 and R52, the checks of WellFormed, one or two results
per command from spec/95_test_vectors.md, and a witness for the hypotheses of every obligation that has some. -/

namespace Sys2Proof.Tests

open Sys2Proof Sys2Proof.Machine

/-- The state a result goes on to. -/
def answerOf : Result → Option State
  | .next t => some t
  | _ => none

/-- The fault a result stops with. -/
def faultOf : Result → Option Fault
  | .fault f => some f
  | _ => none

/-- The refusal a result stops with. -/
def refusalOf : Result → Option Refusal
  | .refused r => some r
  | _ => none

/-- The secret of spec/95, §8. -/
def secret8 : Bytes8 := #v[8, 7, 6, 5, 4, 3, 2, 1]

/-- The block keyed with the secret of §8, in format `fmt`. -/
def keyedIn (fmt : MeasFloat) : State :=
  (State.powerOn { Params.default with measFloat := fmt }).loadSecret secret8

/-- The default block keyed with the secret of §8. -/
def keyed8 : State := keyedIn .binary64

/-- The state after reset with these host events to come. -/
def withPort (es : List HostEvent) : State := { State.reset with port := es }

/-- The response bytes of a command. -/
def sent (r : Result) : Option (List Byte) := (answerOf r).map fun t => t.out.resp.bytes.toList

/-! ### Decoding: words written out from R50 and R52 -/

theorem test_decode_setkey : decodeTableWord 72 0x010203040506070801 = some (.setkey #v[8, 7, 6, 5, 4, 3, 2, 1]) := by decide
theorem test_decode_deobf : decodeTableWord 72 0x080706050403020102 = some (.deobf #v[1, 2, 3, 4, 5, 6, 7, 8]) := by decide
theorem test_decode_testobf : decodeTableWord 72 0x080706050403020103 = some (.testobf #v[1, 2, 3, 4, 5, 6, 7, 8]) := by
  decide
theorem test_decode_validate :
    decodeTableWord 72 0x0000000D7320035004 = some (.validate #v[0x50, 0x03, 0x20, 0x73, 0x0D, 0, 0, 0]) := by decide
theorem test_decode_classify :
    decodeTableWord 72 0x00000000001E114205 = some (.classify #v[0x42, 0x11, 0x1E, 0, 0, 0, 0, 0]) := by decide
theorem test_decode_decode : decodeTableWord 72 0x4D9F9854B7AAA0B406 =
    some (.decode #v[0xB4, 0xA0, 0xAA, 0xB7, 0x54, 0x98, 0x9F, 0x4D]) := by decide
/-- R57: `DEOBF 01, ..., 08` is the byte string `02 01 ... 08`. -/
theorem test_encode_deobf : encode (.deobf #v[1, 2, 3, 4, 5, 6, 7, 8]) = #v[2, 1, 2, 3, 4, 5, 6, 7, 8] := by decide
/-- R54: the boundaries of the reserved opcodes. -/
theorem test_decode_reserved : decode #v[0, 0, 0, 0, 0, 0, 0, 0, 0] = .rejected (.reservedOpcode 0) ∧
    decode #v[7, 0, 0, 0, 0, 0, 0, 0, 0] = .rejected (.reservedOpcode 7) ∧
    decode #v[0xFF, 0, 0, 0, 0, 0, 0, 0, 0] = .rejected (.reservedOpcode 0xFF) := by decide
/-- R57: `CLASSIFY 42, 0x111E` is `05 42 11 1E 00 00 00 00 00`. -/
theorem test_pseudo_classify : encode (.classifyValue 0x42 0x111E) = #v[0x05, 0x42, 0x11, 0x1E, 0, 0, 0, 0, 0] := by decide

/-! ### WellFormed: an ill-formed term for each check -/

theorem test_default_params_accepted : Params.default.wf = true := by decide
/-- R11, check 1: a PERM that reaches position 2 twice. -/
theorem test_perm_not_bijective_refused :
    ({ Params.default with perm := #v[2, 4, 0, 7, 1, 6, 5, 2] } : Params).permBijective = false := by decide
/-- R11, check 2: a KCONST with one bit changed. -/
theorem test_anchor_refused :
    ({ Params.default with kconst := #v[0x49, 0x74, 0x65, 0x6D, 0x70, 0x39, 0x39, 0x65] } : Params).anchorHolds = false := by
  decide
/-- R45: eight bytes are no command. -/
theorem test_partial_command_refused :
    commandLength [2, 1, 2, 3, 4, 5, 6, 7] = false ∧ decodeBytes [2, 1, 2, 3, 4, 5, 6, 7] = .rejected (.notNineBytes 8) := by
  decide

/-! ### Commands: vectors of spec/95 -/

/-- V31: SETKEY from reset, the whole next state. -/
theorem test_setkey_loads : answerOf (exec (.setkey secret8) State.reset) =
    some { State.reset with secret := secret8, keyed := true, out := ⟨true, ⟨.ok, .none, false, 0⟩⟩ } := by decide
/-- V31: a second SETKEY gives `12 00 ...`. -/
theorem test_setkey_locked : sent (exec (.setkey #v[0, 0, 0, 0, 0, 0, 0, 0]) keyed8) =
    some [0x12, 0, 0, 0, 0, 0, 0, 0, 0, 0, 0] := by decide
/-- V1, through the port: P2 step 7. -/
theorem test_deobf_known_vector : sent (step (keyed8.withFetchWord 72 0x080706050403020102)) =
    some [0, 0, 0, 0x1D, 0x19, 0xEA, 0x0B, 0x99, 0x2D, 0xED, 0x2A] := by decide
/-- V4: DEOBF unkeyed. -/
theorem test_deobf_no_key : sent (exec (.deobf #v[1, 2, 3, 4, 5, 6, 7, 8]) State.reset) =
    some [0x11, 0, 0, 0, 0, 0, 0, 0, 0, 0, 0] := by decide
/-- V5: only byte 4 counts. -/
theorem test_testobf_only_byte_four : sent (exec (.testobf #v[0x0D, 0x0D, 0x0D, 0x0D, 0, 0x0D, 0x0D, 0x0D]) State.reset) =
    some [0, 0, 1, 0, 0, 0, 0, 0, 0, 0, 0] := by decide
/-- V5: the marker gives FLAG 0. -/
theorem test_testobf_marker : sent (exec (.testobf #v[0xFF, 0xFF, 0xFF, 0xFF, 0x0D, 0xFF, 0xFF, 0xFF]) State.reset) =
    some [0, 0, 0, 0, 0, 0, 0, 0, 0, 0, 0] := by decide
/-- V6: the largest sum wraps. -/
theorem test_validate_wrap : sent (exec (.validate #v[0xFF, 0xFF, 0xFF, 0xFD, 0x0D, 0, 0, 0]) State.reset) =
    some [0, 0, 0, 0, 0, 0, 0, 0, 0, 0, 0] := by decide
/-- V7: right checksum, wrong marker. -/
theorem test_validate_marker_wrong : sent (exec (.validate #v[0x50, 0x03, 0x20, 0x73, 0x0C, 0, 0, 0]) State.reset) =
    some [1, 0, 0, 0, 0, 0, 0, 0, 0, 0, 0] := by decide
/-- V10: value 4382, binary64. -/
theorem test_classify_temperature : sent (exec (.classify #v[0x42, 0x11, 0x1E, 0, 0, 0, 0, 0]) State.reset) =
    some [0, 1, 0, 0, 0x34, 0x33, 0x33, 0x33, 0x33, 0xE7, 0x3F] := by decide
/-- V11: value 65535, binary32: 0x4423D666. -/
theorem test_classify_humidity_binary32 : sent (exec (.classify #v[0x44, 0xFF, 0xFF, 0, 0, 0, 0, 0]) (keyedIn .binary32)) =
    some [0, 2, 0, 0x66, 0xD6, 0x23, 0x44, 0, 0, 0, 0] := by decide
/-- V21: an obfuscated temperature frame. -/
theorem test_decode_temperature : sent (exec (.decode #v[0xA4, 0xA0, 0x3A, 0xB7, 0xC4, 0x98, 0x9F, 0x3D]) keyed8) =
    some [0, 1, 1, 0, 0x34, 0x33, 0x33, 0x33, 0x33, 0xE7, 0x3F] := by decide
/-- V25: the false rejection is kept. -/
theorem test_decode_false_rejection : sent (exec (.decode #v[0xB4, 0xA0, 0xAB, 0xB7, 0x0D, 0x98, 0x9F, 0x05]) keyed8) =
    some [1, 0, 0, 0, 0, 0, 0, 0, 0, 0, 0] := by decide
/-- V31: a reserved opcode gives `10 00 ...` and keeps the registers. -/
theorem test_reserved_opcode : answerOf (step (keyed8.withFetchWord 72 0x07)) =
    some { keyed8 with out := ⟨true, ⟨.illegalOpcode, .none, false, 0⟩⟩ } := by decide
/-- V31: a host read right after reset is a fault. -/
theorem test_read_after_reset_faults : faultOf (step (withPort [.readOut])) = some .outNotValid := by decide

/-! ### Functions: V1's stages and V10, V11 -/

theorem test_permute : permute Params.default.perm #v[1, 2, 3, 4, 5, 6, 7, 8] = #v[3, 5, 1, 8, 2, 7, 6, 4] := by decide
theorem test_shift_merge : shiftMerge #v[0x0B, 0x02, 0x07, 0x0D, 0x06, 0x04, 0x04, 0x05] =
    #v[0xA1, 0x60, 0x40, 0xE1, 0xA0, 0xC0, 0x80, 0x80] := by decide
theorem test_temperature_negative : ((temperatureOf .binary64 4370).bits .binary64).toNat = 0xBF99999999998000 ∧
    ((temperatureOf .binary32 4370).bits .binary32).toNat = 0xBCCCC000 := by decide
theorem test_humidity_55 : ((humidityOf .binary64 55).bits .binary64).toNat = 0x3FE199999999999A ∧
    ((humidityOf .binary32 55).bits .binary32).toNat = 0x3F0CCCCD := by decide

/-! ### Witnesses: a concrete case that meets all hypotheses of a statement, one for each clause -/

/-- The default PERM is injective: the hypothesis of the deobfuscator statements. -/
theorem witness_perm_injective :
    ∀ i j : Fin 8, Params.default.perm.get i = Params.default.perm.get j → i = j := by decide

theorem witness_EncodeOfDecodeIsIdentity :
    decode #v[1, 8, 7, 6, 5, 4, 3, 2, 1] = .command (.setkey #v[8, 7, 6, 5, 4, 3, 2, 1]) := by decide

theorem witness_OnlyNineBytesAreACommand : ([1, 2] : List Byte).length ≠ 9 ∧ ([1, 2, 3, 4, 5, 6, 7, 8, 9, 10] : List Byte).length ≠ 9 := by
  decide

theorem witness_StepPerformsDecodedCommand :
    (withPort [.command #v[3, 0, 0, 0, 0, 0, 0, 0, 0]]).params.wf = true ∧
    decode #v[3, 0, 0, 0, 0, 0, 0, 0, 0] = .command (.testobf #v[0, 0, 0, 0, 0, 0, 0, 0]) ∧
    decodeTableWord 8 0x03 = some (.testobf #v[0, 0, 0, 0, 0, 0, 0, 0]) := by decide

theorem witness_ReservedOpcodeRaisesIllegalOpcode :
    ((#v[0, 1, 2, 3, 4, 5, 6, 7, 8] : Command)[0]).toNat = 0x00 ∧ 0x07 ≤ ((#v[7, 1, 2, 3, 4, 5, 6, 7, 8] : Command)[0]).toNat ∧
    0x07 ≤ ((#v[0xFF, 1, 2, 3, 4, 5, 6, 7, 8] : Command)[0]).toNat ∧
    (withPort [.command #v[7, 1, 2, 3, 4, 5, 6, 7, 8]]).params.wf = true := by decide

/-- Both sides of the equivalence happen. -/
theorem witness_RefusedExactlyForIllFormedParameters :
    refusalOf (step (State.powerOn { Params.default with perm := #v[2, 4, 0, 7, 1, 6, 5, 2] })) = some .illFormedParameters ∧
    answerOf (step State.reset) = some State.reset := by decide

theorem witness_OutputLatch :
    (withPort [.readOut]).out.valid = false ∧ (withPort [.readOut]).params.wf = true ∧
    ((withPort [.readOut]).respond ⟨.ok, .co2, true, 800⟩).out.valid = true ∧
    ((withPort [.readOut]).respond ⟨.ok, .co2, true, 800⟩).port = [.readOut] := by decide

theorem witness_ResetEvent :
    ({ keyed8 with port := [.reset (some #v[1, 0, 0, 0, 0, 0, 0, 0, 0]), .readOut] } : State).params.wf = true ∧
    (answerOf (step { keyed8 with port := [.reset none, .readOut] })).map (·.keyed) = some false := by decide

theorem witness_IdleStepChangesNothing : State.reset.params.wf = true ∧ State.reset.port = [] := by decide

theorem witness_SetkeyCommand :
    State.reset.keyed = false ∧ keyed8.keyed = true ∧ (#v[1, 0, 0, 0, 0, 0, 0, 0, 0] : Command)[0] = 0x01 := by decide

theorem witness_DeobfCommand :
    State.reset.keyed = false ∧ keyed8.keyed = true ∧ (#v[2, 0, 0, 0, 0, 0, 0, 0, 0] : Command)[0] = 0x02 := by decide

theorem witness_TestobfCommand : (#v[3, 0, 0, 0, 0, 0, 0, 0, 0] : Command)[0] = 0x03 := by decide

theorem witness_ValidateCommand : (#v[4, 0, 0, 0, 0, 0, 0, 0, 0] : Command)[0] = 0x04 := by decide

/-- Each tag clause and the clause of the other tags, at the largest value. -/
theorem witness_ClassifyCommand :
    (#v[5, 0, 0, 0, 0, 0, 0, 0, 0] : Command)[0] = 0x05 ∧ (65535#16).toNat = (0xFF#8).toNat * 256 + (0xFF#8).toNat ∧
    (#v[0x42, 0xFF, 0xFF, 0, 0, 0, 0, 0] : Bytes8)[0] = 0x42 ∧ (#v[0x44, 0xFF, 0xFF, 0, 0, 0, 0, 0] : Bytes8)[0] = 0x44 ∧
    (#v[0x50, 0xFF, 0xFF, 0, 0, 0, 0, 0] : Bytes8)[0] = 0x50 ∧ (0x43 : Byte) ≠ 0x42 ∧ (0x43 : Byte) ≠ 0x44 ∧ (0x43 : Byte) ≠ 0x50 := by
  decide

/-- A valid and an invalid plaintext, on the deobfuscated path (V20, V27) and on the other (V26, V28). -/
theorem witness_DecodeCommand :
    keyed8.keyed = true ∧ State.reset.keyed = false ∧ (#v[6, 0, 0, 0, 0, 0, 0, 0, 0] : Command)[0] = 0x06 ∧
    validate (plaintext keyed8.params keyed8.secret #v[0xB4, 0xA0, 0xAA, 0xB7, 0x54, 0x98, 0x9F, 0x4D]) = .ok ∧
    validate (plaintext keyed8.params keyed8.secret #v[1, 2, 3, 4, 5, 6, 7, 8]) ≠ .ok ∧
    validate (plaintext keyed8.params keyed8.secret #v[0x50, 0x03, 0x20, 0x73, 0x0D, 0, 0, 0]) = .ok ∧
    validate (plaintext keyed8.params keyed8.secret #v[0x50, 0x03, 0x20, 0x74, 0x0D, 0, 0, 0]) ≠ .ok := by decide

theorem witness_EveryCommandCompletesWithinItsFrame :
    (#v[2, 0, 0, 0, 0, 0, 0, 0, 0] : Command)[0] ≠ 0x01 ∧ keyed8.keyed = true := by decide

/-- Operands that differ, but only in lanes the command ignores. -/
theorem witness_IgnoredLanesHaveNoEffect :
    (#v[1, 2, 3, 4, 5, 6, 7, 8] : Bytes8)[4] = (#v[0, 0, 0, 0, 5, 0, 0, 0] : Bytes8)[4] ∧
    (∀ i : Fin 8, i.val ≤ 4 → (#v[1, 2, 3, 4, 5, 6, 7, 8] : Bytes8).get i = (#v[1, 2, 3, 4, 5, 0, 0, 0] : Bytes8).get i) ∧
    reservedOpcode 0x00 = true ∧ reservedOpcode 0x07 = true ∧ reservedOpcode 0xFF = true := by decide

/-- A change in bits 7:3 and one in bits 2:0 of MB[7], whose successor is MB[0]; two frames that differ in F[0] alone. -/
theorem witness_ErrorLocality :
    (∀ k : Fin 8, k ≠ 7 → (#v[0, 0, 0, 0, 0, 0, 0, 0x80] : Bytes8).get k = (#v[0, 0, 0, 0, 0, 0, 0, 0] : Bytes8).get k) ∧
    (0x80#8 ≠ 0 ∧ 0x80#8 &&& 0x07 = 0 &&& 0x07) ∧ (0x01#8 ≠ 0 ∧ 0x01#8 &&& 0xF8 = 0 &&& 0xF8) ∧
    (∀ k : Fin 8, k ≠ 0 → (#v[1, 2, 3, 4, 5, 6, 7, 8] : Bytes8).get k = (#v[0, 2, 3, 4, 5, 6, 7, 8] : Bytes8).get k) := by decide

theorem witness_HeuristicReadsByteFour :
    (#v[1, 2, 3, 4, 5, 6, 7, 8] : Bytes8)[4] = (#v[0, 0, 0, 0, 5, 0, 0, 0] : Bytes8)[4] ∧
    looksObfuscated #v[0, 0, 0, 0, 0x0D, 0, 0, 0] = false ∧ looksObfuscated #v[0, 0, 0, 0, 0x0C, 0, 0, 0] = true := by decide

theorem witness_ValidationDetectsSingleBitFlips :
    validate #v[0x50, 0x03, 0x20, 0x73, 0x0D, 0, 0, 0] = .ok ∧ (3 : Fin 8).val ≤ 3 ∧ (0 : Fin 8).val ≤ 3 ∧
    (∀ i : Fin 8, i.val ≤ 4 →
      (#v[1, 2, 3, 4, 5, 6, 7, 8] : Bytes8).get i = (#v[1, 2, 3, 4, 5, 0, 0, 0] : Bytes8).get i) := by decide

/-- DECODE of a keyed block: V25's frame has byte 4 = 0x0D, V20's has not. -/
theorem witness_HeuristicIsUsedTwice :
    keyed8.keyed = true ∧ (#v[0xB4, 0xA0, 0xAB, 0xB7, 0x0D, 0x98, 0x9F, 0x05] : Bytes8)[4] = 0x0D ∧
    (#v[0xB4, 0xA0, 0xAA, 0xB7, 0x54, 0x98, 0x9F, 0x4D] : Bytes8)[4] ≠ 0x0D := by decide

theorem witness_DecodeYieldsAtMostOneMeasurement : keyed8.keyed = true := by decide

theorem witness_DecodeRefinesTheSingleCommands : keyed8.keyed = true := by decide

theorem witness_FloatOperationsRoundToNearestEven :
    0 < (⟨27315, 100⟩ : Frac).den ∧ (fconst .binary64 ⟨16, 1⟩).mant ≠ 0 ∧ (fconst .binary32 ⟨100, 1⟩).mant ≠ 0 := by decide

/-- The largest finite number and the least subnormal one of either format. -/
theorem witness_BitPatternFields :
    (⟨false, 2 ^ 53 - 1, 971⟩ : Fp).Representable .binary64 ∧ (971 : Int) + 53 - 1 ≤ 1023 ∧
    (⟨true, 1, -1074⟩ : Fp).Representable .binary64 ∧
    (⟨false, 2 ^ 24 - 1, 104⟩ : Fp).Representable .binary32 ∧ (104 : Int) + 24 - 1 ≤ 127 ∧
    (⟨true, 1, -149⟩ : Fp).Representable .binary32 := by
  simp [Fp.Representable, MeasFloat.precision, MeasFloat.minExp, MeasFloat.bias]

theorem witness_ConversionResultsAreFiniteNormal : (0 : BitVec 16) = 0 ∧ (65535 : BitVec 16) ≠ 0 := by decide

/-- A keyed state with a command to come that satisfies the invariant and steps. -/
theorem witness_EveryStepKeepsTheInvariant :
    ({ State.reset.resetBlock with port := [.command #v[1, 0, 0, 0, 0, 0, 0, 0, 0]] } : State).Inv ∧
    (answerOf (step (withPort [.command #v[1, 0, 0, 0, 0, 0, 0, 0, 0]]))).isSome = true := by
  refine ⟨⟨by decide, by decide, fun h => ?_⟩, by decide⟩
  exact absurd h (by decide)

theorem witness_ConstantsAreNeverWritten : answerOf (step State.reset) = some State.reset := by decide

/-- A SETKEY step of an unkeyed block, and a step of another command. -/
theorem witness_SecretIsWrittenOnlyByTheFirstSetkey :
    (answerOf (step (withPort [.command #v[1, 8, 7, 6, 5, 4, 3, 2, 1]]))).map (·.secret) = some secret8 ∧
    (answerOf (step (withPort [.command #v[3, 8, 7, 6, 5, 4, 3, 2, 1]]))).map (·.keyed) = some false ∧
    (∀ lost, HostEvent.command #v[1, 8, 7, 6, 5, 4, 3, 2, 1] ≠ .reset lost) := by
  refine ⟨by decide, by decide, fun lost h => ?_⟩
  cases h

theorem witness_SecretIsFixedBetweenResets :
    ({ keyed8 with port := [.command #v[1, 0, 0, 0, 0, 0, 0, 0, 0]] } : State).keyed = true ∧
    noReset [.command #v[1, 0, 0, 0, 0, 0, 0, 0, 0]] = true ∧
    (answerOf (runs 1 { keyed8 with port := [.command #v[1, 0, 0, 0, 0, 0, 0, 0, 0]] })).isSome = true := by decide

/-- An unkeyed run that goes on, one that faults and one that is refused. -/
theorem witness_UnloadedSecretCannotBeObserved :
    State.reset.keyed = false ∧ (answerOf (runs 1 (withPort [.command #v[2, 0, 0, 0, 0, 0, 0, 0, 0]]))).isSome = true ∧
    faultOf (runs 1 (withPort [.readOut])) = some .outNotValid ∧
    refusalOf (runs 1 (State.powerOn { Params.default with perm := #v[2, 4, 0, 7, 1, 6, 5, 2] })) =
      some .illFormedParameters := by decide

theorem witness_CommandsAreIdempotent :
    (answerOf (exec (.deobf secret8) keyed8)).isSome = true ∧ (answerOf (exec (.setkey secret8) State.reset)).isSome = true ∧
    (∀ op, Instr.deobf secret8 ≠ .setkey op) := by
  refine ⟨by decide, by decide, fun op h => ?_⟩
  cases h

theorem witness_EventsTakeEffectInOrder : State.reset.params.wf = true := by decide

/-- A safe state, and an unsafe one whose run faults. -/
theorem witness_RunsStopOnlyAtAReadOfTheEmptyLatch :
    readsFollowResponses false [.command #v[0, 0, 0, 0, 0, 0, 0, 0, 0], .readOut] = true ∧
    readsFollowResponses false [.reset none, .readOut] = false ∧ State.reset.params.wf = true := by decide

end Sys2Proof.Tests
end

section
/-! Settlements of the scope family (00_scope.md): the parameter checks of R11. -/

namespace Sys2Proof

/-- R11, check 1, as the model computes it: PERM reaches every position exactly when it is injective. -/
theorem permBijective_iff (p : Params) :
    p.permBijective = true ↔ ∀ i j : Fin 8, p.perm.get i = p.perm.get j → i = j := by
  have hsurj : p.permBijective = true ↔ Function.Surjective p.perm.get := by
    simp [Params.permBijective, Function.Surjective]
  rw [hsurj, ← Finite.injective_iff_surjective]
  rfl

/-- Parameters pass R11 exactly when PERM is injective and the anchor pair gives the anchor output. -/
theorem params_wf_iff (p : Params) :
    p.wf = true ↔ (∀ i j : Fin 8, p.perm.get i = p.perm.get j → i = j) ∧
      Machine.deobfuscate p #v[8, 7, 6, 5, 4, 3, 2, 1] #v[1, 2, 3, 4, 5, 6, 7, 8] =
        #v[29, 25, 234, 11, 153, 45, 237, 42] := by
  rw [← permBijective_iff]
  simp [Params.wf, Params.anchorHolds]

namespace Machine

/-- Serving a host event never ends in a refusal: a command answers, a reset answers, a read answers or faults. -/
theorem serve_ne_refused (e : HostEvent) (s : State) (r : Refusal) : serve e s ≠ .refused r := by
  obtain ⟨cmd, -, hs⟩ | ⟨lost, -, hs⟩ | ⟨-, hs⟩ := serve_cases e s <;> rw [hs]
  · obtain ⟨t, ht, -⟩ := perform_next cmd s
    simp [ht]
  · simp
  · cases hv : s.out.valid with
    | false => simp [hostRead_empty hv]
    | true => simp [hostRead_valid hv]

/-- A step is refused for its parameters exactly when they fail R11. -/
theorem step_refused_iff (s : State) : step s = .refused .illFormedParameters ↔ s.params.wf = false := by
  obtain ⟨hw, hs⟩ | ⟨hw, -, hs⟩ | ⟨e, rest, hw, -, hs⟩ := step_cases s
  · simp [hw, hs]
  · simp [hw, hs]
  · simp [hw, hs, serve_ne_refused]

/-! ### The anchor and the constant KCONST -/

/-- Swapping the nibbles of every byte twice gives the buffer back (R74). -/
theorem keystream_keystream (k : Bytes8) : keystream (keystream k) = k := by
  have hswap : ∀ b : Byte, ((b >>> 4 ||| b <<< 4) >>> 4 ||| (b >>> 4 ||| b <<< 4) <<< 4) = b := by decide
  apply bytes8_ext
  intro i
  simp [keystream, hswap]

/-- Step 5 on one byte is subtraction mod 256 (R75). -/
theorem combine_get (rb ks : Bytes8) (i : Fin 8) : (combine rb ks).get i = rb.get i - ks.get i := by
  simp only [combine, buffer_get]
  bv_omega

/-- Step 5 gives `o` for exactly one keystream. -/
theorem combine_eq_iff (rb ks o : Bytes8) : combine rb ks = o ↔ ks = buffer fun i => rb.get i - o.get i := by
  constructor
  · rintro rfl
    apply bytes8_ext
    intro i
    simp [combine_get]
  · rintro rfl
    apply bytes8_ext
    intro i
    simp [combine_get]

/-- For every secret, frame and PERM the transform gives `o` for exactly one KCONST. -/
theorem deobfuscate_eq_iff_kconst (p : Params) (s f o : Bytes8) :
    deobfuscate p s f = o ↔
      p.kconst = keystream (buffer fun i => (shiftMerge (mixedBuffer p s f)).get i - o.get i) := by
  rw [deobfuscate, combine_eq_iff]
  constructor
  · intro h
    rw [← h, keystream_keystream]
  · intro h
    rw [h, keystream_keystream]

end Machine

/-- The only KCONST that passes the regression anchor of R11 with the PERM of `p`. -/
def Params.anchorConstant (p : Params) : Bytes8 :=
  Machine.keystream (buffer fun i =>
    (Machine.shiftMerge (Machine.mixedBuffer p #v[8, 7, 6, 5, 4, 3, 2, 1] #v[1, 2, 3, 4, 5, 6, 7, 8])).get i -
      (#v[29, 25, 234, 11, 153, 45, 237, 42] : Bytes8).get i)

/-- Whatever the parameters, a KCONST put in their place passes the anchor exactly when it is their anchor constant. -/
theorem anchorHolds_iff (p : Params) (k : Bytes8) :
    ({ p with kconst := k } : Params).anchorHolds = true ↔ k = p.anchorConstant := by
  rw [Params.anchorHolds, beq_iff_eq, Machine.deobfuscate_eq_iff_kconst]
  rfl

end Sys2Proof

open Sys2Proof Sys2Proof.Machine

/-- Settles O13: serving an event refuses nothing, so only the check of the parameters does, and that check is R11's. -/
theorem refusedExactlyForIllFormedParameters : Obligations.RefusedExactlyForIllFormedParameters := by
  unfold Obligations.RefusedExactlyForIllFormedParameters
  intro s
  rw [step_refused_iff, ← params_wf_iff, Bool.not_eq_true]

/-- Settles O34: the transform is injective in KCONST, so each PERM has one anchor constant; the default's is its own KCONST. -/
theorem anchorFixesTheConstant : Obligations.AnchorFixesTheConstant := by
  unfold Obligations.AnchorFixesTheConstant
  have hdefault : Params.default.kconst = Params.default.anchorConstant :=
    (anchorHolds_iff Params.default Params.default.kconst).1 (by decide)
  refine ⟨by decide, by decide, fun p => ⟨p.anchorConstant, anchorHolds_iff p⟩, fun k => ?_⟩
  rw [anchorHolds_iff, hdefault]
end

section
/-! Bit patterns: the IEEE 754 fields of a finite number (R14, R116). -/

namespace Sys2Proof

theorem bias_pos (fmt : MeasFloat) : 0 < fmt.bias := by cases fmt <;> decide

/-- The sign bit stands right above the exponent and fraction fields. -/
theorem two_pow_width_sub_one (fmt : MeasFloat) :
    2 ^ (fmt.width - 1) = (2 * fmt.bias + 2) * 2 ^ (fmt.precision - 1) := by cases fmt <;> decide

namespace Machine

/-- A number's mantissa has at most one bit more than the fraction field. -/
theorem Fp.Representable.mant_lt {fmt : MeasFloat} {x : Fp} (hx : x.Representable fmt) :
    x.mant < 2 * 2 ^ (fmt.precision - 1) := by
  have hp := precision_ge_two fmt
  have hpow : 2 ^ fmt.precision = 2 * 2 ^ (fmt.precision - 1) := by
    rw [← pow_succ', Nat.sub_add_cancel (by omega)]
  exact hpow ▸ hx.1

/-- The exponent of a finite number, counted from the format's least, leaves room for the pattern of infinity. -/
theorem exp_sub_minExp_lt {fmt : MeasFloat} {x : Fp}
    (hfin : x.exp + (fmt.precision : Int) - 1 ≤ (fmt.bias : Int)) :
    (x.exp - fmt.minExp).toNat + 1 ≤ 2 * fmt.bias := by
  have hb := bias_pos fmt
  simp only [MeasFloat.minExp]
  omega

/-- A finite number's magnitude pattern is not cut off at infinity. -/
theorem magnitudePattern_eq {fmt : MeasFloat} {x : Fp} (hx : x.Representable fmt)
    (hfin : x.exp + (fmt.precision : Int) - 1 ≤ (fmt.bias : Int)) :
    x.magnitudePattern fmt = (x.exp - fmt.minExp).toNat * 2 ^ (fmt.precision - 1) + x.mant := by
  have hm := hx.mant_lt
  have hE := Nat.mul_le_mul_right (2 ^ (fmt.precision - 1)) (exp_sub_minExp_lt hfin)
  refine min_eq_left ?_
  rw [MeasFloat.infPattern, Nat.add_mul (2 * fmt.bias)]
  rw [Nat.add_mul] at hE
  omega

/-- A finite number's magnitude pattern lies below the sign bit. -/
theorem magnitudePattern_lt (fmt : MeasFloat) (x : Fp) : x.magnitudePattern fmt < 2 ^ (fmt.width - 1) := by
  refine lt_of_le_of_lt (min_le_right _ _) ?_
  rw [two_pow_width_sub_one, MeasFloat.infPattern]
  exact Nat.mul_lt_mul_of_pos_right (by omega) (by positivity)

/-- The bit pattern as a number: the sign bit above the magnitude pattern. -/
theorem bits_toNat (fmt : MeasFloat) (x : Fp) :
    (x.bits fmt).toNat = (if x.neg then 2 ^ (fmt.width - 1) else 0) + x.magnitudePattern fmt := by
  have hlt := magnitudePattern_lt fmt x
  have hw : 2 ^ fmt.width = 2 * 2 ^ (fmt.width - 1) := by
    rw [← pow_succ', Nat.sub_add_cancel (by cases fmt <;> decide)]
  rw [Fp.bits, BitVec.toNat_ofNat, Nat.mod_eq_of_lt]
  split <;> omega

/-- The top bit of the pattern is the sign. -/
theorem bits_sign (fmt : MeasFloat) (x : Fp) : (x.bits fmt).getLsbD (fmt.width - 1) = x.neg := by
  have hlt := magnitudePattern_lt fmt x
  rw [← BitVec.testBit_toNat, bits_toNat]
  cases x.neg with
  | false => simp [Nat.testBit_lt_two_pow hlt]
  | true => simp [Nat.testBit_two_pow_add_eq, Nat.testBit_lt_two_pow hlt]

/-- The exponent and fraction fields of a pattern whose magnitude part has exponent code `c` and fraction `f`. -/
theorem bits_fields {fmt : MeasFloat} {x : Fp} {c f : Nat}
    (h : x.magnitudePattern fmt = c * 2 ^ (fmt.precision - 1) + f) (hc : c < 2 * fmt.bias + 2)
    (hf : f < 2 ^ (fmt.precision - 1)) :
    (x.bits fmt).toNat / 2 ^ (fmt.precision - 1) % (2 * fmt.bias + 2) = c ∧
    (x.bits fmt).toNat % 2 ^ (fmt.precision - 1) = f := by
  obtain ⟨s, hs⟩ : ∃ s, (x.bits fmt).toNat =
      f + 2 ^ (fmt.precision - 1) * (c + (2 * fmt.bias + 2) * s) := by
    refine ⟨if x.neg then 1 else 0, ?_⟩
    rw [bits_toNat, h, two_pow_width_sub_one]
    split <;> ring
  rw [hs, Nat.add_mul_div_left _ _ (by positivity), Nat.div_eq_of_lt hf, Nat.zero_add, Nat.add_mul_mod_self_left,
    Nat.add_mul_mod_self_left]
  exact ⟨Nat.mod_eq_of_lt hc, Nat.mod_eq_of_lt hf⟩

/-- A normal number's fields: the biased exponent, and the mantissa without its hidden bit. -/
theorem bits_fields_normal {fmt : MeasFloat} {x : Fp} (hx : x.Representable fmt)
    (hfin : x.exp + (fmt.precision : Int) - 1 ≤ (fmt.bias : Int)) (hm : 2 ^ (fmt.precision - 1) ≤ x.mant) :
    (x.bits fmt).toNat / 2 ^ (fmt.precision - 1) % (2 * fmt.bias + 2) = (x.exp - fmt.minExp).toNat + 1 ∧
    (x.bits fmt).toNat % 2 ^ (fmt.precision - 1) = x.mant - 2 ^ (fmt.precision - 1) := by
  have hlt := hx.mant_lt
  have hE := exp_sub_minExp_lt hfin
  refine bits_fields ?_ (by omega) (by omega)
  rw [magnitudePattern_eq hx hfin, Nat.add_mul]
  omega

/-- A subnormal number's fields: exponent code 0, and the mantissa itself. -/
theorem bits_fields_subnormal {fmt : MeasFloat} {x : Fp} (hx : x.Representable fmt)
    (hfin : x.exp + (fmt.precision : Int) - 1 ≤ (fmt.bias : Int)) (hm : x.mant < 2 ^ (fmt.precision - 1)) :
    (x.bits fmt).toNat / 2 ^ (fmt.precision - 1) % (2 * fmt.bias + 2) = 0 ∧
    (x.bits fmt).toNat % 2 ^ (fmt.precision - 1) = x.mant := by
  have ⟨_, _, hnormal⟩ := hx
  rcases hnormal with hnorm | hexp
  · omega
  · refine bits_fields ?_ (by omega) hm
    rw [magnitudePattern_eq hx hfin, hexp]
    simp

end Machine

end Sys2Proof

open Sys2Proof Sys2Proof.Machine

/-- Settles O42: normal or subnormal, the magnitude pattern is exponent code times 2^(p-1) plus fraction, below the sign. -/
theorem bitPatternFields : Obligations.BitPatternFields := by
  unfold Obligations.BitPatternFields
  intro fmt x hx hfin
  refine ⟨bits_sign fmt x, fun hm => ?_, bits_fields_subnormal hx hfin⟩
  obtain ⟨hexp, hfrac⟩ := bits_fields_normal hx hfin hm
  refine ⟨?_, hfrac⟩
  obtain ⟨-, hmin, -⟩ := hx
  rw [hexp]
  simp only [MeasFloat.minExp] at hmin ⊢
  omega
end

section
/-! Rounding: every float operation gives a nearest number of the format to its exact result, ties to even (R14). -/

namespace Sys2Proof.Machine

/-! ### The sign of a number and of a fraction -/

/-- The factor a sign bit stands for. -/
def signFactor (neg : Bool) : ℤ := if neg then -1 else 1

theorem abs_signFactor (neg : Bool) : |(signFactor neg : ℚ)| = 1 := by cases neg <;> simp [signFactor]

/-- A number is its sign times its magnitude. -/
theorem rat_eq_signFactor (x : Fp) : x.rat = signFactor x.neg * ((x.mant : ℚ) * 2 ^ x.exp) := by
  cases h : x.neg <;> simp [Fp.rat, signFactor, h]

/-- The magnitude of a number. -/
theorem abs_rat (x : Fp) : |x.rat| = (x.mant : ℚ) * 2 ^ x.exp := by
  rw [rat_eq_signFactor, abs_mul, abs_signFactor, one_mul, abs_of_nonneg (by positivity)]

/-- A fraction is its sign times the quotient of its magnitudes. -/
theorem fracRat_eq_signFactor (d : Frac) :
    d.rat = signFactor (decide (d.num < 0)) * ((d.num.natAbs : ℚ) / d.den) := by
  rw [Frac.rat, Nat.cast_natAbs, ← mul_div_assoc]
  congr 1
  by_cases h : d.num < 0
  · simp [signFactor, h, abs_of_neg h]
  · simp [signFactor, h, abs_of_nonneg (not_lt.1 h)]

/-- The magnitude of a fraction. -/
theorem abs_fracRat (d : Frac) : |d.rat| = (d.num.natAbs : ℚ) / d.den := by
  rw [fracRat_eq_signFactor, abs_mul, abs_signFactor, one_mul, abs_of_nonneg (by positivity)]

/-! ### The exponent of the last place and the mantissa before the carry -/

/-- The magnitude of the numbers with all their bits at last place `e`, as a multiple of `2 ^ e`. -/
theorem least_full_eq (fmt : MeasFloat) (e : Int) :
    (2 : ℚ) ^ (e + (fmt.precision : Int) - 1) = (2 ^ (fmt.precision - 1) : Nat) * 2 ^ e := by
  have hp := precision_ge_two fmt
  rw [Nat.cast_pow, Nat.cast_ofNat, ← zpow_natCast, ← zpow_add₀ two_ne_zero]
  congr 1
  omega

/-- The exponent of the last place at which `n / d` is rounded, as `roundMagnitude` chooses it. -/
def lastPlace (fmt : MeasFloat) (n d : Nat) : Int :=
  max (floorLog2 n d - ((fmt.precision : Int) - 1)) fmt.minExp

/-- `n / d` counted in units of its last place and rounded: the mantissa before a carry into a new binade. -/
def roundedMant (fmt : MeasFloat) (n d : Nat) : Nat :=
  roundQuot (n * 2 ^ (-lastPlace fmt n d).toNat) (d * 2 ^ (lastPlace fmt n d).toNat)

theorem minExp_le_lastPlace (fmt : MeasFloat) (n d : Nat) : fmt.minExp ≤ lastPlace fmt n d := le_max_right _ _

/-- Rounding a nonzero magnitude: the rounded mantissa, moved up one binade when it carries out of the precision. -/
theorem roundMagnitude_eq {n : Nat} (hn : n ≠ 0) (fmt : MeasFloat) (d : Nat) :
    roundMagnitude fmt n d =
      if roundedMant fmt n d = 2 ^ fmt.precision then (2 ^ (fmt.precision - 1), lastPlace fmt n d + 1)
      else (roundedMant fmt n d, lastPlace fmt n d) := by
  rw [roundMagnitude, if_neg hn]
  rfl

/-- The magnitude has at most `precision` bits above its last place. -/
theorem magnitude_lt (fmt : MeasFloat) {n d : Nat} (hn : n ≠ 0) (hd : d ≠ 0) :
    (n : ℚ) / d < 2 ^ (lastPlace fmt n d + fmt.precision) := by
  obtain ⟨-, hlog⟩ := floorLog2_spec hn hd
  have hle : floorLog2 n d - ((fmt.precision : Int) - 1) ≤ lastPlace fmt n d := le_max_left _ _
  exact hlog.trans_le (zpow_le_zpow_right₀ (by norm_num) (by omega))

/-- The magnitude has all `precision` bits unless the last place is the format's least. -/
theorem le_magnitude (fmt : MeasFloat) {n d : Nat} (hn : n ≠ 0) (hd : d ≠ 0) :
    (2 : ℚ) ^ (lastPlace fmt n d + (fmt.precision : Int) - 1) ≤ (n : ℚ) / d ∨ lastPlace fmt n d = fmt.minExp := by
  obtain ⟨hlog, -⟩ := floorLog2_spec hn hd
  rcases max_choice (floorLog2 n d - ((fmt.precision : Int) - 1)) fmt.minExp with h | h
  · left
    rw [lastPlace, h]
    convert hlog using 2
    ring
  · exact .inr h

/-- The rounded mantissa is within half a unit of the exact one, and even at a tie. -/
theorem roundedMant_spec (fmt : MeasFloat) (n : Nat) {d : Nat} (hd : d ≠ 0) :
    |(roundedMant fmt n d : ℚ) - (n : ℚ) / d / 2 ^ lastPlace fmt n d| ≤ 1 / 2 ∧
    (|(roundedMant fmt n d : ℚ) - (n : ℚ) / d / 2 ^ lastPlace fmt n d| = 1 / 2 → roundedMant fmt n d % 2 = 0) := by
  have h := roundQuot_spec (n * 2 ^ (-lastPlace fmt n d).toNat)
    (d := d * 2 ^ (lastPlace fmt n d).toNat) (by positivity)
  rwa [scaled_div] at h

/-- The rounded mantissa carries at most to the next power of two. -/
theorem roundedMant_le (fmt : MeasFloat) {n d : Nat} (hn : n ≠ 0) (hd : d ≠ 0) :
    roundedMant fmt n d ≤ 2 ^ fmt.precision := by
  have hnear := (abs_le.1 (roundedMant_spec fmt n hd).1).2
  have hlt : (n : ℚ) / d / 2 ^ lastPlace fmt n d < 2 ^ fmt.precision := by
    rw [div_lt_iff₀ (by positivity), ← zpow_natCast, ← zpow_add₀ two_ne_zero, add_comm]
    exact magnitude_lt fmt hn hd
  have hq : (roundedMant fmt n d : ℚ) < (2 ^ fmt.precision + 1 : Nat) := by
    push_cast
    linarith
  exact Nat.lt_succ_iff.1 (by exact_mod_cast hq)

/-- The rounded mantissa has all its bits unless the last place is the format's least. -/
theorem le_roundedMant (fmt : MeasFloat) {n d : Nat} (hn : n ≠ 0) (hd : d ≠ 0) :
    2 ^ (fmt.precision - 1) ≤ roundedMant fmt n d ∨ lastPlace fmt n d = fmt.minExp := by
  refine (le_magnitude fmt hn hd).imp_left fun hle => ?_
  have hnear := (abs_le.1 (roundedMant_spec fmt n hd).1).1
  rw [least_full_eq, ← le_div_iff₀ (by positivity)] at hle
  have hq : ((2 ^ (fmt.precision - 1) : Nat) : ℚ) < (roundedMant fmt n d + 1 : Nat) := by
    rw [Nat.cast_add_one]
    linarith
  exact Nat.lt_succ_iff.1 (by exact_mod_cast hq)

/-! ### What rounding a fraction gives -/

/-- A rounded zero is +0. -/
theorem roundFrac_zero (fmt : MeasFloat) {x : Frac} (hx : x.num = 0) : roundFrac fmt x = ⟨false, 0, fmt.minExp⟩ := by
  simp [roundFrac, roundMagnitude, hx]

/-- A rounded fraction is a number of the format. -/
theorem roundFrac_representable (fmt : MeasFloat) {x : Frac} (hx : x.num ≠ 0) (hd : x.den ≠ 0) :
    (roundFrac fmt x).Representable fmt := by
  have hn : x.num.natAbs ≠ 0 := Int.natAbs_ne_zero.2 hx
  have hp := precision_ge_two fmt
  have hmin := minExp_le_lastPlace fmt x.num.natAbs x.den
  simp only [roundFrac, roundMagnitude_eq hn, Fp.Representable]
  split
  · exact ⟨Nat.pow_lt_pow_right (by norm_num) (by omega), by simp only; omega, .inl le_rfl⟩
  · rename_i hcarry
    exact ⟨lt_of_le_of_ne (roundedMant_le fmt hn hd) hcarry, hmin, le_roundedMant fmt hn hd⟩

/-- The carry keeps the value, so a rounded fraction is its rounded mantissa in units of its last place. -/
theorem roundFrac_rat (fmt : MeasFloat) {x : Frac} (hx : x.num ≠ 0) :
    (roundFrac fmt x).rat = signFactor (decide (x.num < 0)) *
      ((roundedMant fmt x.num.natAbs x.den : ℚ) * 2 ^ lastPlace fmt x.num.natAbs x.den) := by
  have hn : x.num.natAbs ≠ 0 := Int.natAbs_ne_zero.2 hx
  have hp := precision_ge_two fmt
  simp only [roundFrac, roundMagnitude_eq hn, rat_eq_signFactor]
  split
  · rename_i hcarry
    have hpow : (2 : ℚ) ^ fmt.precision = 2 ^ (fmt.precision - 1) * 2 := by
      rw [← pow_succ, Nat.sub_add_cancel (by omega)]
    simp only [hcarry, Nat.cast_pow, Nat.cast_ofNat, hpow]
    rw [zpow_add_one₀ two_ne_zero]
    ring
  · rfl

/-- The carry keeps an even mantissa even. -/
theorem roundFrac_mant_even (fmt : MeasFloat) {x : Frac} (hx : x.num ≠ 0)
    (heven : roundedMant fmt x.num.natAbs x.den % 2 = 0) : (roundFrac fmt x).mant % 2 = 0 := by
  have hp := precision_ge_two fmt
  simp only [roundFrac, roundMagnitude_eq (Int.natAbs_ne_zero.2 hx)]
  split
  · exact Nat.mod_eq_zero_of_dvd (dvd_pow_self 2 (by omega))
  · exact heven

/-- The rounding error of a fraction is that of its mantissa, in units of the last place. -/
theorem abs_roundFrac_sub (fmt : MeasFloat) {x : Frac} (hx : x.num ≠ 0) :
    |(roundFrac fmt x).rat - x.rat| =
      |(roundedMant fmt x.num.natAbs x.den : ℚ) -
        (x.num.natAbs : ℚ) / x.den / 2 ^ lastPlace fmt x.num.natAbs x.den| *
      2 ^ lastPlace fmt x.num.natAbs x.den := by
  have hu : (0 : ℚ) < 2 ^ lastPlace fmt x.num.natAbs x.den := by positivity
  rw [roundFrac_rat fmt hx, fracRat_eq_signFactor, ← mul_sub, abs_mul, abs_signFactor, one_mul]
  generalize (2 : ℚ) ^ lastPlace fmt x.num.natAbs x.den = u at hu ⊢
  calc |(roundedMant fmt x.num.natAbs x.den : ℚ) * u - (x.num.natAbs : ℚ) / x.den|
      = |((roundedMant fmt x.num.natAbs x.den : ℚ) - (x.num.natAbs : ℚ) / x.den / u) * u| := by
        rw [sub_mul, div_mul_cancel₀ _ hu.ne']
    _ = |(roundedMant fmt x.num.natAbs x.den : ℚ) - (x.num.natAbs : ℚ) / x.den / u| * u := by
        rw [abs_mul, abs_of_pos hu]

/-- A rounded fraction is within half a unit of its last place of the exact value, with an even mantissa at a tie. -/
theorem roundFrac_near (fmt : MeasFloat) {x : Frac} (hx : x.num ≠ 0) (hd : x.den ≠ 0) :
    |(roundFrac fmt x).rat - x.rat| ≤ 2 ^ lastPlace fmt x.num.natAbs x.den / 2 ∧
    (|(roundFrac fmt x).rat - x.rat| = 2 ^ lastPlace fmt x.num.natAbs x.den / 2 → (roundFrac fmt x).mant % 2 = 0) := by
  obtain ⟨hnear, htie⟩ := roundedMant_spec fmt x.num.natAbs hd
  have hu : (0 : ℚ) < 2 ^ lastPlace fmt x.num.natAbs x.den := by positivity
  rw [abs_roundFrac_sub fmt hx, div_eq_mul_one_div (2 ^ _ : ℚ) 2, mul_comm (2 ^ _ : ℚ) (1 / 2)]
  exact ⟨mul_le_mul_of_nonneg_right hnear hu.le,
    fun h => roundFrac_mant_even fmt hx (htie (mul_right_cancel₀ hu.ne' h))⟩

/-! ### Nearest on a grid, and the numbers of the format off the grid -/

/-- A grid point within half a step of `q` is a nearest grid point, and the only one unless it is exactly half a step away. -/
theorem nearest_grid_point {u q : ℚ} (hu : 0 < u) {k : ℤ} (hnear : |k * u - q| ≤ u / 2) (j : ℤ) :
    |k * u - q| ≤ |j * u - q| ∧ (|j * u - q| = |k * u - q| → j * u = k * u ∨ |k * u - q| = u / 2) := by
  by_cases hjk : j = k
  · simp [hjk]
  · have hstep : u ≤ |j * u - k * u| := by
      have hone : (1 : ℚ) ≤ |((j - k : ℤ) : ℚ)| := by exact_mod_cast Int.one_le_abs (sub_ne_zero.2 hjk)
      rw [← sub_mul, abs_mul, abs_of_pos hu, ← Int.cast_sub]
      exact le_mul_of_one_le_left hu.le hone
    have htri := abs_sub_le (j * u) q (k * u)
    rw [abs_sub_comm q] at htri
    exact ⟨by linarith, fun h => .inr (by linarith)⟩

/-- A number of the format is a multiple of a given power of two, or lies below the least number with all its bits there. -/
theorem representable_on_grid_or_below {fmt : MeasFloat} {y : Fp} (hy : y.Representable fmt) (e : Int) :
    (∃ j : ℤ, y.rat = j * 2 ^ e) ∨ fmt.minExp < e ∧ |y.rat| < 2 ^ (e + (fmt.precision : Int) - 1) := by
  obtain ⟨hmant, hmin, -⟩ := hy
  rcases le_or_gt e y.exp with h | h
  · left
    obtain ⟨k, hk⟩ := Int.eq_ofNat_of_zero_le (sub_nonneg.2 h)
    refine ⟨signFactor y.neg * (y.mant * 2 ^ k), ?_⟩
    rw [rat_eq_signFactor, show y.exp = k + e by omega, zpow_add₀ two_ne_zero, zpow_natCast]
    push_cast
    ring
  · right
    refine ⟨by omega, ?_⟩
    calc |y.rat| = (y.mant : ℚ) * 2 ^ y.exp := abs_rat y
      _ < 2 ^ fmt.precision * 2 ^ y.exp := by gcongr; exact_mod_cast hmant
      _ = 2 ^ (fmt.precision + y.exp) := by rw [zpow_add₀ two_ne_zero, zpow_natCast]
      _ ≤ 2 ^ (e + (fmt.precision : Int) - 1) := zpow_le_zpow_right₀ (by norm_num) (by omega)

/-- Some multiple of `u` of magnitude `m * u` lies between `q` and every value of smaller magnitude. -/
theorem grid_point_closer_than_below {u q y : ℚ} (m : ℕ) (hq : m * u ≤ |q|) (hy : |y| < m * u) :
    ∃ j : ℤ, |j * u - q| < |y - q| := by
  obtain ⟨hy1, hy2⟩ := abs_lt.1 hy
  rcases abs_cases q with ⟨habs, -⟩ | ⟨habs, -⟩ <;> rw [habs] at hq
  · refine ⟨m, ?_⟩
    push_cast
    rw [abs_of_nonpos (by linarith), abs_of_neg (by linarith)]
    linarith
  · refine ⟨-m, ?_⟩
    push_cast
    rw [abs_of_nonneg (by linarith), abs_of_pos (by linarith)]
    linarith

/-- A number of the format on the grid of `2 ^ e`, within half a step of `q` and even at a tie, is the nearest-even number to
`q`, when `q` has all its bits at that last place or the place is the format's least. -/
theorem nearestEven_of_grid {fmt : MeasFloat} {q : ℚ} {x : Fp} (hx : x.Representable fmt) {e k : Int}
    (hk : x.rat = k * 2 ^ e) (hnear : |x.rat - q| ≤ 2 ^ e / 2) (htie : |x.rat - q| = 2 ^ e / 2 → x.mant % 2 = 0)
    (hfull : (2 : ℚ) ^ (e + (fmt.precision : Int) - 1) ≤ |q| ∨ e = fmt.minExp) : x.NearestEven fmt q := by
  have hu : (0 : ℚ) < 2 ^ e := by positivity
  rw [hk] at hnear htie
  refine ⟨hx, fun y hy => ?_⟩
  rw [hk]
  rcases representable_on_grid_or_below hy e with ⟨j, hj⟩ | ⟨hmin, hbelow⟩
  · obtain ⟨hle, heq⟩ := nearest_grid_point hu hnear j
    rw [hj]
    exact ⟨hle, fun h => (heq h).imp_right htie⟩
  · have hq := hfull.resolve_right hmin.ne'
    rw [least_full_eq] at hq hbelow
    obtain ⟨j, hj⟩ := grid_point_closer_than_below _ hq hbelow
    have hlt := (nearest_grid_point hu hnear j).1.trans_lt hj
    exact ⟨hlt.le, fun h => absurd h hlt.ne'⟩

/-- Rounding is correct: a rounded fraction is the nearest-even number of the format to its exact value. -/
theorem roundFrac_nearestEven (fmt : MeasFloat) {x : Frac} (hd : 0 < x.den) :
    (roundFrac fmt x).NearestEven fmt x.rat := by
  by_cases hx : x.num = 0
  · rw [roundFrac_zero fmt hx]
    refine ⟨⟨by positivity, le_rfl, .inr rfl⟩, fun y _ => ?_⟩
    simp [Fp.rat, Frac.rat, hx]
  · obtain ⟨hnear, htie⟩ := roundFrac_near fmt hx hd.ne'
    refine nearestEven_of_grid (roundFrac_representable fmt hx hd.ne')
      (k := signFactor (decide (x.num < 0)) * roundedMant fmt x.num.natAbs x.den) ?_ hnear htie ?_
    · rw [roundFrac_rat fmt hx]
      push_cast
      ring
    · rw [abs_fracRat]
      exact le_magnitude fmt (Int.natAbs_ne_zero.2 hx) hd.ne'

/-! ### The exact operations on fractions -/

theorem frac_den_pos (x : Fp) : 0 < x.frac.den := by simp [Fp.frac]

/-- The fraction of a number denotes its value. -/
theorem frac_rat (x : Fp) : x.frac.rat = x.rat := by
  have h := scaled_div x.mant 1 (-x.exp)
  have hnum : x.frac.num = signFactor x.neg * ((x.mant * 2 ^ x.exp.toNat : Nat) : Int) := by
    cases hneg : x.neg <;> simp [Fp.frac, signFactor, hneg]
  rw [neg_neg, one_mul, Nat.cast_one, div_one, zpow_neg, div_inv_eq_mul] at h
  rw [Frac.rat, hnum, rat_eq_signFactor, ← h, Int.cast_mul, Int.cast_natCast, mul_div_assoc]
  rfl

/-- A number with a nonzero mantissa has a nonzero numerator. -/
theorem frac_num_ne_zero {x : Fp} (hx : x.mant ≠ 0) : x.frac.num ≠ 0 := by
  cases h : x.neg <;> simp [Fp.frac, h, hx]

theorem div_den_pos {a b : Frac} (ha : 0 < a.den) (hb : b.num ≠ 0) : 0 < (a.div b).den :=
  Nat.mul_pos ha (Int.natAbs_pos.2 hb)

/-- The quotient of two fractions denotes the quotient of their values. -/
theorem frac_div_rat (a b : Frac) : (a.div b).rat = a.rat / b.rat := by
  rw [div_eq_mul_inv]
  simp only [Frac.rat, Frac.div, Nat.cast_mul, Nat.cast_natAbs]
  rcases lt_or_ge b.num 0 with h | h
  · rw [if_pos h, abs_of_neg h]
    push_cast
    rw [mul_neg, neg_div_neg_eq, inv_div, div_mul_div_comm]
  · rw [if_neg (not_lt.2 h), abs_of_nonneg h]
    push_cast
    rw [inv_div, div_mul_div_comm]

theorem sub_den_pos {a b : Frac} (ha : 0 < a.den) (hb : 0 < b.den) : 0 < (a.sub b).den := Nat.mul_pos ha hb

/-- The difference of two fractions denotes the difference of their values. -/
theorem frac_sub_rat {a b : Frac} (ha : 0 < a.den) (hb : 0 < b.den) : (a.sub b).rat = a.rat - b.rat := by
  have ha' : (a.den : ℚ) ≠ 0 := by exact_mod_cast ha.ne'
  have hb' : (b.den : ℚ) ≠ 0 := by exact_mod_cast hb.ne'
  simp only [Frac.rat, Frac.sub]
  rw [div_sub_div _ _ ha' hb']
  push_cast
  ring

/-- `f_div` by a nonzero number is the quotient rounded to nearest even (R14). -/
theorem fdiv_nearestEven (fmt : MeasFloat) (a b : Fp) (hb : b.mant ≠ 0) :
    (fdiv fmt a b).NearestEven fmt (a.rat / b.rat) := by
  rw [← frac_rat a, ← frac_rat b, ← frac_div_rat]
  exact roundFrac_nearestEven fmt (div_den_pos (frac_den_pos a) (frac_num_ne_zero hb))

/-- `f_sub` is the difference rounded to nearest even (R14). -/
theorem fsub_nearestEven (fmt : MeasFloat) (a b : Fp) : (fsub fmt a b).NearestEven fmt (a.rat - b.rat) := by
  rw [← frac_rat a, ← frac_rat b, ← frac_sub_rat (frac_den_pos a) (frac_den_pos b)]
  exact roundFrac_nearestEven fmt (sub_den_pos (frac_den_pos a) (frac_den_pos b))

/-! ### Exactness -/

/-- Rounding to nearest gives a value of the format back unchanged. -/
theorem Fp.NearestEven.rat_eq {fmt : MeasFloat} {x y : Fp} (hx : x.NearestEven fmt y.rat) (hy : y.Representable fmt) :
    x.rat = y.rat := by
  have hle := (hx.2 y hy).1
  rw [sub_self, abs_zero] at hle
  exact sub_eq_zero.1 (abs_nonpos_iff.1 hle)

/-- Every natural number that fits the precision is a number of the format. -/
theorem exists_representable_nat (fmt : MeasFloat) {n : Nat} (hn : n < 2 ^ fmt.precision) :
    ∃ y : Fp, y.Representable fmt ∧ y.rat = n := by
  by_cases h0 : n = 0
  · exact ⟨⟨false, 0, fmt.minExp⟩, ⟨by positivity, le_rfl, .inr rfl⟩, by simp [Fp.rat, h0]⟩
  · have hp := precision_ge_two fmt
    have hlog : Nat.log2 n < fmt.precision := (Nat.log2_lt h0).2 hn
    obtain ⟨k, hk⟩ := Nat.exists_eq_add_of_lt hlog
    have hpow : 2 ^ fmt.precision = 2 ^ (Nat.log2 n + 1) * 2 ^ k := by
      rw [← pow_add]
      congr 1
      omega
    have hpow' : 2 ^ (fmt.precision - 1) = 2 ^ Nat.log2 n * 2 ^ k := by
      rw [← pow_add]
      congr 1
      omega
    refine ⟨⟨false, n * 2 ^ k, -k⟩, ⟨?_, ?_, .inl ?_⟩, ?_⟩
    · rw [hpow]
      exact Nat.mul_lt_mul_of_pos_right Nat.lt_log2_self (by positivity)
    · have hbias : 2 ≤ fmt.bias := by cases fmt <;> decide
      simp only [MeasFloat.minExp]
      omega
    · rw [hpow']
      exact Nat.mul_le_mul_right _ (Nat.log2_self_le h0)
    · simp [Fp.rat]

/-- A 16-bit value fits the precision of either format. -/
theorem toNat_lt_precision (fmt : MeasFloat) (n : BitVec 16) : n.toNat < 2 ^ fmt.precision :=
  n.isLt.trans_le (Nat.pow_le_pow_right (by norm_num) (by cases fmt <;> decide))

theorem toFloat_nearestEven (fmt : MeasFloat) (n : BitVec 16) : (toFloat fmt n).NearestEven fmt (n.toNat : ℚ) := by
  simpa [toFloat, Frac.rat] using roundFrac_nearestEven fmt (x := ⟨(n.toNat : Int), 1⟩) Nat.one_pos

/-- `to_float` of a 16-bit value is exact (R14). -/
theorem toFloat_rat (fmt : MeasFloat) (n : BitVec 16) : (toFloat fmt n).rat = (n.toNat : ℚ) := by
  obtain ⟨y, hy, hrat⟩ := exists_representable_nat fmt (toNat_lt_precision fmt n)
  rw [← hrat]
  exact Fp.NearestEven.rat_eq (hrat ▸ toFloat_nearestEven fmt n) hy

end Sys2Proof.Machine

open Sys2Proof Sys2Proof.Machine

/-- Settles O41: each operator rounds its exact fraction once, and rounding gives the nearest number of the format because
numbers off the grid of the last place are all smaller than the exact value's binade. -/
theorem floatOperationsRoundToNearestEven : Obligations.FloatOperationsRoundToNearestEven := by
  unfold Obligations.FloatOperationsRoundToNearestEven
  exact ⟨fun fmt n => ⟨(toFloat_nearestEven fmt n).1, toFloat_rat fmt n⟩,
    fun fmt _ hd => roundFrac_nearestEven fmt hd, fdiv_nearestEven, fsub_nearestEven⟩
end

section
/-! What a step and a run can do, said once, and what a decoding says about the nine bytes. -/

namespace Sys2Proof

/-- A decoded command has the opcode and the operand lanes of the bytes it came from (R50, R52). -/
theorem decode_command {cmd : Command} {i : Instr} (h : decode cmd = .command i) :
    Command.opc cmd = i.opcode ∧ Command.operand cmd = i.op := by
  unfold decode at h
  split at h <;> cases h
  all_goals exact ⟨BitVec.eq_of_toNat_eq ‹_›, rfl⟩

/-- A rejected command has one of the reserved opcodes (R54). -/
theorem decode_rejected {cmd : Command} {e : DecodeError} (h : decode cmd = .rejected e) :
    (Command.opc cmd).toNat = 0x00 ∨ 0x07 ≤ (Command.opc cmd).toNat := by
  unfold decode at h
  split at h <;> cases h
  simp only [imp_false] at *
  omega

namespace Machine

/-- What serving an event that goes on leads to: a decoded command's register writes and response, ILLEGAL_OPCODE, the state
of a reset, or the same state after a read of a valid latch. -/
theorem serve_next {e : HostEvent} {s t : State} (h : serve e s = .next t) :
    (∃ cmd i, e = .command cmd ∧ decode cmd = .command i ∧
      t = (loadedBy i s).respond (responseOf i s.params s.keyed s.secret)) ∨
    (∃ cmd, e = .command cmd ∧ t = s.respond (raised .illegalOpcode)) ∨
    (∃ lost, e = .reset lost ∧ t = s.resetBlock) ∨
    (e = .readOut ∧ s.out.valid = true ∧ t = s) := by
  obtain ⟨cmd, he, hs⟩ | ⟨lost, he, hs⟩ | ⟨he, hs⟩ := serve_cases e s <;> rw [hs] at h
  · obtain ⟨i, hd, hp⟩ | ⟨_, -, hp⟩ := perform_eq cmd s <;> rw [hp] at h <;> cases h
    · exact .inl ⟨cmd, i, he, hd, rfl⟩
    · exact .inr (.inl ⟨cmd, he, rfl⟩)
  · cases h
    exact .inr (.inr (.inl ⟨lost, he, rfl⟩))
  · cases hv : s.out.valid with
    | false => rw [hostRead_empty hv] at h; cases h
    | true => exact .inr (.inr (.inr ⟨he, rfl, hostRead_next h⟩))

/-- Serving an event goes on, or it is the read of an empty latch and faults (R23, R150). -/
theorem serve_next_or_fault (e : HostEvent) (s : State) :
    (∃ t, serve e s = .next t) ∨
    (e = .readOut ∧ s.out.valid = false ∧ serve e s = .fault .outNotValid) := by
  obtain ⟨cmd, -, hs⟩ | ⟨lost, -, hs⟩ | ⟨he, hs⟩ := serve_cases e s <;> rw [hs]
  · obtain ⟨t, ht, -⟩ := perform_next cmd s
    exact .inl ⟨t, ht⟩
  · exact .inl ⟨_, rfl⟩
  · cases hv : s.out.valid with
    | false => exact .inr ⟨he, rfl, hostRead_empty hv⟩
    | true => exact .inl ⟨s, hostRead_valid hv⟩

/-- A step that goes on is idle or has served the oldest event. -/
theorem step_next {s t : State} (h : step s = .next t) :
    (s.port = [] ∧ t = s) ∨ ∃ e rest, s.port = e :: rest ∧ serve e { s with port := rest } = .next t := by
  obtain ⟨-, hs⟩ | ⟨-, hp, hs⟩ | ⟨e, rest, -, hp, hs⟩ := step_cases s <;> rw [hs] at h
  · cases h
  · cases h
    exact .inl ⟨hp, rfl⟩
  · exact .inr ⟨e, rest, hp, h⟩

/-- With well-formed parameters a step with nothing from the host is idle. -/
theorem step_of_port_nil {s : State} (hw : s.params.wf = true) (hp : s.port = []) : step s = .next s := by
  simp [step, hw, hp]

/-- With well-formed parameters a step serves the head of the port. -/
theorem step_of_port_cons {s : State} {e : HostEvent} {rest : List HostEvent} (hw : s.params.wf = true)
    (hp : s.port = e :: rest) : step s = serve e { s with port := rest } := by
  simp [step, hw, hp]

/-- A step leaves the constants (R25). -/
theorem step_params {s t : State} (h : step s = .next t) : t.params = s.params := by
  obtain ⟨-, rfl⟩ | ⟨e, rest, -, hs⟩ := step_next h
  · rfl
  · exact (serve_params hs :)

/-- A step takes one event from the port. -/
theorem step_port {s t : State} (h : step s = .next t) : t.port = s.port.tail := by
  obtain ⟨hp, rfl⟩ | ⟨e, rest, hp, hs⟩ := step_next h
  · rw [hp]; rfl
  · rw [hp, serve_port hs]; rfl

/-- A run whose first step goes on is the run from there. -/
theorem runs_succ_of_next {s u : State} (h : step s = .next u) (k : Nat) : runs (k + 1) s = runs k u := by
  rw [runs_succ, h]

/-- A run of k + 1 steps that goes on is a step that goes on and a run of k steps that goes on. -/
theorem runs_succ_next {k : Nat} {s t : State} (h : runs (k + 1) s = .next t) :
    ∃ u, step s = .next u ∧ runs k u = .next t := by
  cases hs : step s with
  | next u => exact ⟨u, rfl, by rw [← runs_succ_of_next hs, h]⟩
  | fault f => rw [runs_succ, hs] at h; cases h
  | refused r => rw [runs_succ, hs] at h; cases h

/-- What every step that goes on keeps, every run that goes on keeps. -/
theorem runs_keeps {P : State → Prop} (hstep : ∀ s t, P s → step s = .next t → P t) {k : Nat} {s t : State}
    (hs : P s) (h : runs k s = .next t) : P t := by
  induction k generalizing s with
  | zero => cases h; exact hs
  | succ k ih =>
    obtain ⟨u, hu, hr⟩ := runs_succ_next h
    exact ih (hstep s u hs hu) hr

end Machine

end Sys2Proof
end

section
/-! The invariant of the machine: every response a command latches is a legal one (R24, R26, R116). -/

namespace Sys2Proof.Machine

/-- A response without a kind is legal when its result is 0 but with OK and FLAG 0, and its status fits FLAG and KEYED. -/
theorem legalResponse_kind_none {p : Params} {keyed : Bool} {st : Status} {flag : Bool} {w : Word64}
    (hresult : st ≠ .ok ∨ flag = true → w = 0) (hflag : flag = true → st = .ok ∨ st = .invalidFrame)
    (hnoKey : st = .noKey → keyed = false) (hlocked : st = .keyLocked → keyed = true) :
    LegalResponse p keyed ⟨st, .none, flag, w⟩ where
  plainError h := ⟨rfl, hresult (.inl h)⟩
  flagStatus := hflag
  flagResult h _ := hresult (.inr h)
  noKey := hnoKey
  keyLocked := hlocked
  co2 h := by cases h
  temperature h := by cases h
  humidity h := by cases h

/-- A response with status OK is legal when its result fits its kind. -/
theorem legalResponse_ok {p : Params} {keyed : Bool} {kind : Kind} {flag : Bool} {w : Word64}
    (hnone : kind = .none → w = 0) (hco2 : kind = .co2 → w.toNat < 65536)
    (htemp : kind = .temperature → ∃ v, w = ((temperatureOf p.measFloat v).bits p.measFloat).setWidth 64)
    (hhum : kind = .humidity → ∃ v, w = ((humidityOf p.measFloat v).bits p.measFloat).setWidth 64) :
    LegalResponse p keyed ⟨.ok, kind, flag, w⟩ where
  plainError h := absurd rfl h
  flagStatus _ := .inl rfl
  flagResult _ h := hnone h
  noKey h := by cases h
  keyLocked h := by cases h
  co2 := hco2
  temperature := htemp
  humidity := hhum

/-- The response that reports a classification is legal, whatever FLAG and KEYED are (R111 to R116). -/
theorem classifyResponse_legal (p : Params) (keyed : Bool) (r : Record) (flag : Bool) :
    LegalResponse p keyed (classifyResponse p.measFloat r flag) := by
  unfold classifyResponse classify
  split_ifs
  · exact legalResponse_ok nofun nofun (fun _ => ⟨r.value, rfl⟩) nofun
  · exact legalResponse_ok nofun nofun nofun (fun _ => ⟨r.value, rfl⟩)
  · refine legalResponse_ok nofun (fun _ => ?_) nofun nofun
    rw [resultOf, BitVec.toNat_setWidth_of_le (by decide)]
    exact r.value.isLt
  · exact legalResponse_ok (fun _ => rfl) nofun nofun nofun

/-- DECODE of a keyed block reports the plaintext's classification or INVALID_FRAME, with FLAG saying which path was taken
(R130, R131). -/
theorem decodeFrame_cases (p : Params) (s raw : Bytes8) :
    decodeFrame p s raw =
      classifyResponse p.measFloat (recordOfFrame (plaintext p s raw)) (looksObfuscated raw) ∨
    decodeFrame p s raw = ⟨.invalidFrame, .none, looksObfuscated raw, 0⟩ := by
  unfold decodeFrame decodeFlag
  rcases validate_cases (plaintext p s raw) with h | h
  · exact .inl (by simp [h])
  · exact .inr (by simp [h])

/-- A raised status is legal unless it contradicts KEYED. -/
theorem raised_legal {p : Params} {keyed : Bool} {x : Status} (hnoKey : x = .noKey → keyed = false)
    (hlocked : x = .keyLocked → keyed = true) : LegalResponse p keyed (raised x) :=
  legalResponse_kind_none (by simp) (by simp) hnoKey hlocked

/-- The response of every decoded command is legal for the KEYED the command leaves. -/
theorem responseOf_legal (i : Instr) (s : State) :
    LegalResponse s.params (loadedBy i s).keyed (responseOf i s.params s.keyed s.secret) := by
  cases i with
  | setkey op =>
    cases h : s.keyed with
    | false => exact legalResponse_kind_none (by simp) (by simp) (by simp) (by simp)
    | true => exact raised_legal (by simp) (by simp [loadedBy, h])
  | deobf op =>
    cases h : s.keyed with
    | false => exact raised_legal (by simp [loadedBy, h]) (by simp)
    | true => exact legalResponse_kind_none (by simp) (by simp) (by simp) (by simp)
  | testobf op => exact legalResponse_kind_none (by simp) (by simp) (by simp) (by simp)
  | validate op =>
    rcases validate_cases op with h | h <;> simp only [responseOf, h] <;>
      exact legalResponse_kind_none (by simp) (by simp) (by simp) (by simp)
  | classify op => exact classifyResponse_legal s.params _ _ _
  | decode op =>
    cases h : s.keyed with
    | false => exact raised_legal (by simp [loadedBy, h]) (by simp)
    | true =>
      simp only [responseOf, if_true]
      rcases decodeFrame_cases s.params s.secret op with hd | hd <;> rw [hd]
      · exact classifyResponse_legal s.params _ _ _
      · exact legalResponse_kind_none (by simp) (by simp) (by simp) (by simp)

/-- A state whose latch holds a fresh legal response meets the invariant. -/
theorem inv_respond {s : State} {r : Response} (hw : s.params.wf = true) (hr : LegalResponse s.params s.keyed r) :
    (s.respond r).Inv :=
  ⟨hw, fun _ => rfl, fun _ => hr⟩

/-- A reset block meets the invariant: it is unkeyed and its latch is empty (R31, R170). -/
theorem inv_resetBlock {s : State} (hw : s.params.wf = true) : s.resetBlock.Inv :=
  ⟨hw, by simp, by simp⟩

/-- The invariant does not speak of what the host does next. -/
theorem State.Inv.withPort {s : State} (h : s.Inv) (es : List HostEvent) : ({ s with port := es } : State).Inv :=
  ⟨h.params, h.keyedAnswered, h.legal⟩

/-- Serving an event keeps the invariant. -/
theorem serve_inv {e : HostEvent} {s t : State} (hs : s.Inv) (h : serve e s = .next t) : t.Inv := by
  obtain ⟨cmd, i, -, -, rfl⟩ | ⟨cmd, -, rfl⟩ | ⟨lost, -, rfl⟩ | ⟨-, -, rfl⟩ := serve_next h
  · exact inv_respond (by simpa using hs.params) (by simpa using responseOf_legal i s)
  · exact inv_respond hs.params (raised_legal (by simp) (by simp))
  · exact inv_resetBlock hs.params
  · exact hs

end Sys2Proof.Machine

open Sys2Proof Sys2Proof.Machine

/-- Settles O45: an answering step is idle or serves an event, and a served event latches a legal response, empties the latch
or changes nothing. -/
theorem everyStepKeepsTheInvariant : Obligations.EveryStepKeepsTheInvariant := by
  unfold Obligations.EveryStepKeepsTheInvariant
  intro s t hs h
  obtain ⟨-, rfl⟩ | ⟨e, rest, -, ht⟩ := step_next h
  · exact hs
  · exact serve_inv (hs.withPort rest) ht

/-- Settles O46: the default parameters pass R11, and the reset block is unkeyed with an empty latch. -/
theorem invariantHoldsAtReset : Obligations.InvariantHoldsAtReset :=
  inv_resetBlock (s := State.reset) (by decide)

/-- Settles O47: no served event writes the parameters, a reset included. -/
theorem constantsAreNeverWritten : Obligations.ConstantsAreNeverWritten := fun _ _ => step_params
end

section
/-! The Session Secret: written once between two resets (R21, R22, R30), and not observable before (R29). -/

namespace Sys2Proof.Machine

/-- An event that is no reset changes SECRET and KEYED only as a SETKEY of an unkeyed block (R21, R22). -/
theorem serve_registers {e : HostEvent} {s t : State} (he : ∀ lost, e ≠ .reset lost) (h : serve e s = .next t) :
    (t.secret = s.secret ∧ t.keyed = s.keyed) ∨
    (∃ cmd op, e = .command cmd ∧ decode cmd = .command (.setkey op) ∧ s.keyed = false ∧ t.keyed = true ∧
      t.secret = op) := by
  obtain ⟨cmd, i, hc, hd, rfl⟩ | ⟨cmd, -, rfl⟩ | ⟨lost, hr, -⟩ | ⟨-, -, rfl⟩ := serve_next h
  · obtain hi | ⟨op, rfl, hk, hi⟩ := loadedBy_cases i s
    · exact .inl (by simp [hi])
    · exact .inr ⟨cmd, op, hc, hd, hk, by simp [hi], by simp [hi]⟩
  · exact .inl ⟨rfl, rfl⟩
  · exact absurd hr (he lost)
  · exact .inl ⟨rfl, rfl⟩

theorem noReset_cons {e : HostEvent} {es : List HostEvent} :
    noReset (e :: es) = true ↔ (∀ lost, e ≠ .reset lost) ∧ noReset es = true := by
  cases e <;> simp [noReset]

/-- The block is locked with the secret `x`, and no reset is to come. -/
def LockedWith (x : Bytes8) (s : State) : Prop := s.secret = x ∧ s.keyed = true ∧ noReset s.port = true

/-- A step keeps a locked block locked with the same secret (R30). -/
theorem step_lockedWith (x : Bytes8) (s t : State) (hs : LockedWith x s) (h : step s = .next t) : LockedWith x t := by
  obtain ⟨-, rfl⟩ | ⟨e, rest, hp, ht⟩ := step_next h
  · exact hs
  · obtain ⟨hx, hk, hn⟩ := hs
    rw [hp, noReset_cons] at hn
    obtain ⟨he, hrest⟩ := hn
    obtain ⟨hsec, hkey⟩ | ⟨-, -, -, -, hk', -⟩ := serve_registers he ht
    · exact ⟨hsec.trans hx, hkey.trans hk, by rw [serve_port ht]; exact hrest⟩
    · exact absurd hk (by simpa using hk')

/-- `s'` is `s` but for the content of SECRET, and the same state once KEYED is set. -/
def SameButUnloadedSecret (s s' : State) : Prop :=
  ∃ y, s' = { s with secret := y } ∧ (s.keyed = true → y = s.secret)

/-- Two results alike to the host: the same stop, or next states that differ in an unloaded SECRET alone. -/
inductive AlikeResults : Result → Result → Prop
  | next {t t' : State} (h : SameButUnloadedSecret t t') : AlikeResults (.next t) (.next t')
  | fault (f : Fault) : AlikeResults (.fault f) (.fault f)
  | refused (r : Refusal) : AlikeResults (.refused r) (.refused r)

theorem SameButUnloadedSecret.refl (s : State) : SameButUnloadedSecret s s := ⟨s.secret, by simp, fun _ => by simp⟩

theorem AlikeResults.refl : ∀ r : Result, AlikeResults r r
  | .next t => .next (.refl t)
  | .fault f => .fault f
  | .refused r => .refused r

theorem AlikeResults.of_next {t : State} {o : Result} (h : AlikeResults (.next t) o) :
    ∃ y, o = .next { t with secret := y } ∧ (t.keyed = true → y = t.secret) := by
  obtain ⟨y, rfl, hy⟩ := h
  exact ⟨y, rfl, hy⟩

theorem AlikeResults.of_fault {f : Fault} {o : Result} (h : AlikeResults (.fault f) o) : o = .fault f := by
  cases h
  rfl

theorem AlikeResults.of_refused {r : Refusal} {o : Result} (h : AlikeResults (.refused r) o) : o = .refused r := by
  cases h
  rfl

/-- The same response latched keeps two states alike. -/
theorem SameButUnloadedSecret.respond {s s' : State} (h : SameButUnloadedSecret s s') (r : Response) :
    SameButUnloadedSecret (s.respond r) (s'.respond r) := by
  obtain ⟨y, rfl, hy⟩ := h
  exact ⟨y, by simp [State.respond], hy⟩

/-- No response of an unkeyed block depends on SECRET (R29, R153). -/
theorem responseOf_unkeyed (i : Instr) (p : Params) {keyed : Bool} (hk : keyed = false) (x y : Bytes8) :
    responseOf i p keyed x = responseOf i p keyed y := by
  cases i <;> simp [responseOf, hk]

/-- An unkeyed block keeps the content of SECRET to itself, or a SETKEY replaces it whole. -/
theorem loadedBy_alike (i : Instr) {s : State} (hk : s.keyed = false) (x : Bytes8) :
    SameButUnloadedSecret (loadedBy i s) (loadedBy i { s with secret := x }) := by
  cases i with
  | setkey op => exact ⟨op, by simp [loadedBy, hk, State.loadSecret], by simp [loadedBy, hk]⟩
  | _ => exact ⟨x, rfl, by simp [loadedBy, hk]⟩

/-- A command performed by two unkeyed blocks that differ in SECRET alone answers alike. -/
theorem perform_alike (cmd : Command) {s : State} (hk : s.keyed = false) (x : Bytes8) :
    AlikeResults (perform cmd s) (perform cmd { s with secret := x }) := by
  unfold perform
  cases decode cmd with
  | command i =>
    simp only [exec_eq, responseOf_unkeyed i s.params hk x s.secret]
    exact .next ((loadedBy_alike i hk x).respond _)
  | rejected e => exact .next (SameButUnloadedSecret.respond ⟨x, rfl, by simp [hk]⟩ _)

/-- An event served by two blocks alike leaves them alike. -/
theorem serve_alike (e : HostEvent) {s s' : State} (h : SameButUnloadedSecret s s') :
    AlikeResults (serve e s) (serve e s') := by
  obtain ⟨y, rfl, hy⟩ := h
  by_cases hk : s.keyed = true
  · rw [hy hk]
    exact .refl _
  · cases e with
    | command cmd => exact perform_alike cmd (by simpa using hk) y
    | reset lost => exact .refl _
    | readOut =>
      simp only [serve, hostRead]
      cases s.out.read with
      | ok _ => exact .next ⟨y, rfl, hy⟩
      | error f => exact .fault f

/-- Two blocks alike step alike. -/
theorem step_alike {s s' : State} (h : SameButUnloadedSecret s s') : AlikeResults (step s) (step s') := by
  obtain ⟨y, rfl, hy⟩ := h
  obtain ⟨hw, hs⟩ | ⟨hw, hp, hs⟩ | ⟨e, rest, hw, hp, hs⟩ := step_cases s <;> rw [hs]
  · rw [(step_refused_iff { s with secret := y }).2 hw]
    exact .refused _
  · rw [step_of_port_nil (s := { s with secret := y }) hw hp]
    exact .next ⟨y, rfl, hy⟩
  · rw [step_of_port_cons (s := { s with secret := y }) hw hp]
    exact serve_alike e ⟨y, rfl, hy⟩

/-- Two blocks alike run alike, however long. -/
theorem runs_alike (k : Nat) {s s' : State} (h : SameButUnloadedSecret s s') : AlikeResults (runs k s) (runs k s') := by
  induction k generalizing s s' with
  | zero => exact .next h
  | succ k ih =>
    have hstep := step_alike h
    rw [runs_succ, runs_succ]
    generalize step s = r at hstep
    generalize step s' = r' at hstep
    cases hstep with
    | next ht => exact ih ht
    | fault f => exact .fault f
    | refused r => exact .refused r

end Sys2Proof.Machine

open Sys2Proof Sys2Proof.Machine

/-- Settles O48: the step serves the head of the port, and only a SETKEY of an unkeyed block writes the registers. -/
theorem secretIsWrittenOnlyByTheFirstSetkey : Obligations.SecretIsWrittenOnlyByTheFirstSetkey := by
  unfold Obligations.SecretIsWrittenOnlyByTheFirstSetkey
  intro s t e rest hp he h
  obtain ⟨hnil, -⟩ | ⟨e', rest', hp', ht⟩ := step_next h
  · rw [hnil] at hp
    cases hp
  · rw [hp] at hp'
    cases hp'
    exact (serve_registers he ht :)

/-- Settles O49: being locked with a given secret, with no reset to come, is kept by every step. -/
theorem secretIsFixedBetweenResets : Obligations.SecretIsFixedBetweenResets := by
  unfold Obligations.SecretIsFixedBetweenResets
  intro k s t hk hn h
  obtain ⟨hx, hk', -⟩ := runs_keeps (step_lockedWith s.secret) ⟨rfl, hk, hn⟩ h
  exact ⟨hx, hk'⟩

/-- Settles O50: two unkeyed blocks that differ in SECRET alone are alike, and blocks alike run alike. -/
theorem unloadedSecretCannotBeObserved : Obligations.UnloadedSecretCannotBeObserved := by
  unfold Obligations.UnloadedSecretCannotBeObserved
  intro k s x hk
  have hrun : AlikeResults (runs k s) (runs k { s with secret := x }) := runs_alike k ⟨x, rfl, by simp [hk]⟩
  exact ⟨fun t h => (h ▸ hrun).of_next, fun f h => (h ▸ hrun).of_fault, fun r h => (h ▸ hrun).of_refused⟩
end

section
/-! OUT, its FLAG (R23, R26), and the one stop of the machine: a read of the empty latch (R150). -/

namespace Sys2Proof.Machine

/-- The heuristic is true exactly when byte 4 is not the marker (R90). -/
theorem looksObfuscated_eq (f : Bytes8) : looksObfuscated f = decide (f[4] ≠ 0x0D) := by
  simp [looksObfuscated, Config.marker, bne, beq_eq_decide]

/-- FLAG of DECODE says whether the raw frame was deobfuscated (R131). -/
theorem decodeFrame_flag (p : Params) (s raw : Bytes8) : (decodeFrame p s raw).flag = looksObfuscated raw := by
  obtain h | h := decodeFrame_cases p s raw
  · rw [h]
    rfl
  · rw [h]

/-- FLAG of a decoded command (R26). -/
theorem responseOf_flag (i : Instr) (p : Params) (keyed : Bool) (x : Bytes8) :
    (responseOf i p keyed x).flag =
      decide ((i.opcode = 0x03 ∨ i.opcode = 0x06 ∧ keyed = true) ∧ i.op[4] ≠ 0x0D) := by
  cases i with
  | testobf op => simp [responseOf, looksObfuscated_eq, Instr.opcode, Instr.op]
  | decode op => cases keyed <;> simp [responseOf, decodeFrame_flag, looksObfuscated_eq, raised, Instr.opcode, Instr.op]
  | setkey op => cases keyed <;> simp [responseOf, raised, Instr.opcode]
  | deobf op => cases keyed <;> simp [responseOf, raised, Instr.opcode]
  | validate op => simp [responseOf, Instr.opcode]
  | classify op => simp [responseOf, classifyResponse, Instr.opcode]

/-- A response written over a latch does not depend on what the latch held (R23). -/
theorem loadedBy_respond_latch (i : Instr) (s : State) (o : Out) (r : Response) :
    (loadedBy i { s with out := o }).respond r = (loadedBy i s).respond r := by
  cases i with
  | setkey op => cases h : s.keyed <;> simp [loadedBy, h, State.respond, State.loadSecret]
  | _ => rfl

/-- No command depends on the response the latch held before it (R23, R156). -/
theorem perform_latch (cmd : Command) (s : State) (o : Out) : perform cmd { s with out := o } = perform cmd s := by
  unfold perform
  cases decode cmd with
  | command i => simp only [exec_eq, loadedBy_respond_latch]
  | rejected e => rfl

/-- An event leaves the host's later reads as good as they were before it. -/
theorem serve_readsFollowResponses {e : HostEvent} {s t : State} (h : serve e s = .next t) (es : List HostEvent) :
    readsFollowResponses s.out.valid (e :: es) = readsFollowResponses t.out.valid es := by
  obtain ⟨cmd, i, rfl, -, rfl⟩ | ⟨cmd, rfl, rfl⟩ | ⟨lost, rfl, rfl⟩ | ⟨rfl, hv, rfl⟩ := serve_next h
  · rfl
  · rfl
  · rfl
  · simp [readsFollowResponses, hv]

/-- A step that goes on leads from safe states to safe ones and from unsafe states to unsafe ones. -/
theorem step_safe_iff {s t : State} (h : step s = .next t) : s.Safe ↔ t.Safe := by
  obtain ⟨-, rfl⟩ | ⟨e, rest, hp, ht⟩ := step_next h
  · exact Iff.rfl
  · rw [State.Safe, State.Safe, step_params h, step_port h, hp, List.tail_cons,
      serve_readsFollowResponses (s := { s with port := rest }) ht]

/-- With well-formed parameters a step goes on, or the state is unsafe and the step faults at a read of the empty latch. -/
theorem step_next_or_fault {s : State} (hw : s.params.wf = true) :
    (∃ t, step s = .next t) ∨ (¬ s.Safe ∧ step s = .fault .outNotValid) := by
  obtain ⟨hw', -⟩ | ⟨-, -, hs⟩ | ⟨e, rest, -, hp, hs⟩ := step_cases s
  · simp [hw] at hw'
  · exact .inl ⟨s, hs⟩
  · rw [hs]
    obtain ht | ⟨rfl, hv, hf⟩ := serve_next_or_fault e { s with port := rest }
    · exact .inl ht
    · refine .inr ⟨fun hsafe => ?_, hf⟩
      have hreads := hsafe.2
      rw [hp, show s.out.valid = false from hv] at hreads
      cases hreads

/-- No run from a safe state stops. -/
theorem State.Safe.runs_next {s : State} (hs : s.Safe) (k : Nat) : ∃ t, runs k s = .next t := by
  induction k generalizing s with
  | zero => exact ⟨s, rfl⟩
  | succ k ih =>
    obtain ⟨u, hu⟩ | ⟨hunsafe, -⟩ := step_next_or_fault hs.1
    · rw [runs_succ_of_next hu]
      exact ih ((step_safe_iff hu).1 hs)
    · exact absurd hs hunsafe

/-- From an unsafe state with well-formed parameters some run reaches the read of the empty latch. -/
theorem runs_fault_of_not_safe {s : State} (hw : s.params.wf = true) (hs : ¬ s.Safe) :
    ∃ k, runs k s = .fault .outNotValid := by
  induction hp : s.port generalizing s with
  | nil => exact absurd ⟨hw, by rw [hp]; rfl⟩ hs
  | cons e rest ih =>
    obtain ⟨u, hu⟩ | ⟨-, hf⟩ := step_next_or_fault hw
    · obtain ⟨k, hk⟩ := ih (by rw [step_params hu, hw]) (mt (step_safe_iff hu).2 hs) (by rw [step_port hu, hp]; rfl)
      exact ⟨k + 1, by rw [runs_succ_of_next hu, hk]⟩
    · exact ⟨1, by rw [runs_succ, hf]⟩

end Sys2Proof.Machine

open Sys2Proof Sys2Proof.Machine

/-- Settles O54: a step keeps both safety and its failure, and each step uses up one event, so an unsafe state comes to its
read of the empty latch. -/
theorem runsStopOnlyAtAReadOfTheEmptyLatch : Obligations.RunsStopOnlyAtAReadOfTheEmptyLatch := by
  unfold Obligations.RunsStopOnlyAtAReadOfTheEmptyLatch
  intro s hw
  refine ⟨⟨fun hs k => hs.runs_next k, fun hruns => ?_⟩, runs_fault_of_not_safe hw⟩
  by_contra hs
  obtain ⟨k, hk⟩ := runs_fault_of_not_safe hw hs
  obtain ⟨t, ht⟩ := hruns k
  rw [hk] at ht
  cases ht

/-- Settles O27: the flag of a decoded command by its opcode, and no reserved opcode is that of TESTOBF or DECODE. -/
theorem flagOfEveryCommand : Obligations.FlagOfEveryCommand := by
  unfold Obligations.FlagOfEveryCommand
  intro cmd s
  change ∃ t, perform cmd s = .next t ∧ t.out.resp.flag =
    decide ((Command.opc cmd = 0x03 ∨ Command.opc cmd = 0x06 ∧ s.keyed = true) ∧ (Command.operand cmd)[4] ≠ 0x0D)
  obtain ⟨i, hd, hp⟩ | ⟨e, hd, hp⟩ := perform_eq cmd s
  · obtain ⟨hopc, hop⟩ := decode_command hd
    exact ⟨_, hp, by rw [hopc, hop]; exact responseOf_flag i s.params s.keyed s.secret⟩
  · refine ⟨_, hp, (decide_eq_false ?_).symm⟩
    have hreserved := decode_rejected hd
    rintro ⟨hopc | ⟨hopc, -⟩, -⟩ <;> rw [hopc] at hreserved <;> exact absurd hreserved (by decide)

/-- Settles O14: a command's answer does not depend on the latch, and a read goes by VALID alone. -/
theorem outputLatch : Obligations.OutputLatch := by
  unfold Obligations.OutputLatch
  refine ⟨fun cmd s => ?_, rfl, fun s rest hw hp hv => ?_, fun s rest hw hp hv => ?_⟩
  · obtain ⟨t, ht, hvalid⟩ := perform_next cmd s
    have hout : t.out = ⟨true, t.out.resp⟩ := by rw [← hvalid]
    exact ⟨t.out.resp, t, ht, hout, fun o => ⟨t, by rw [perform_latch, ht], hout⟩⟩
  · exact ⟨by simp [Out.read, hv], by rw [step_of_port_cons hw hp]; exact hostRead_empty hv⟩
  · exact ⟨by simp [Out.read, hv], by rw [step_of_port_cons hw hp]; exact hostRead_valid hv⟩

/-- Settles O16: each field of the reset state is the spec's value by definition, and the keystream is computed from KCONST. -/
theorem resetState : Obligations.ResetState := by
  unfold Obligations.ResetState
  refine ⟨rfl, rfl, rfl, rfl, rfl, by decide, rfl, rfl, rfl, rfl, rfl⟩
end

section
/-! The command port (R43, R45 to R47): lanes of a RESULT word, whole commands, idempotence, and the order of host events. -/

namespace Sys2Proof

/-- The nine bytes of a command decode as the command (R45, R55). -/
theorem decodeBytes_toList (cmd : Command) : decodeBytes cmd.toList = decode cmd := by
  simp only [decodeBytes, Vector.length_toList, dite_true]
  rfl

/-- An opcode-table word names an instruction only as its command decodes to it. -/
theorem decode_tableCommand {nbits w : Nat} {i : Instr} (h : decodeTableWord nbits w = some i) :
    decode (tableCommand nbits w) = .command i := by
  unfold decodeTableWord at h
  cases hd : decode (tableCommand nbits w) with
  | command j =>
    rw [hd] at h
    cases h
    rfl
  | rejected e =>
    rw [hd] at h
    cases h

namespace Machine

/-! ### Lanes -/

/-- Response byte 3 + i is lane i of RESULT (R51). -/
theorem bytes_get_result (r : Response) (i : Fin 8) : r.bytes.get (Fin.natAdd 3 i) = resultLane r.result i := by
  fin_cases i <;> rfl

/-- Bit k of lane i is bit 8i + k of the word. -/
theorem resultLane_getLsbD (r : Word64) (i : Fin 8) {k : Nat} (hk : k < 8) :
    (resultLane r i).getLsbD k = r.getLsbD (8 * i.val + k) := by
  simp [resultLane, hk]

/-- Two RESULT words that agree in every lane are the same word. -/
theorem word64_ext {r r' : Word64} (h : ∀ i : Fin 8, resultLane r i = resultLane r' i) : r = r' := by
  apply BitVec.eq_of_getLsbD_eq
  intro j hj
  have hk : j % 8 < 8 := Nat.mod_lt j (by decide)
  have hlane := congrArg (·.getLsbD (j % 8)) (h ⟨j / 8, by omega⟩)
  simpa only [resultLane_getLsbD _ _ hk, Nat.div_add_mod] using hlane

/-- Lane i of a packed frame is frame byte i (R43). -/
theorem resultLane_laneWord (o : Bytes8) (i : Fin 8) : resultLane (laneWord o) i = o.get i := by
  unfold resultLane laneWord
  rw [BitVec.setWidth_eq]
  fin_cases i <;>
    simp (disch := decide) only [BitVec.extractLsb'_append_eq_of_le, BitVec.extractLsb'_append_eq_of_add_le] <;>
    exact BitVec.extractLsb'_eq_self

/-- Packing the lanes of a word gives the word back. -/
theorem laneWord_resultLanes (r : Word64) : laneWord (resultLanes r) = r :=
  word64_ext fun i => by rw [resultLane_laneWord, resultLanes, buffer_get]

/-! ### Idempotence -/

/-- A decoded command does not depend on the response latched before it (R46, R156). -/
theorem exec_respond (i : Instr) (s : State) (r : Response) : exec i (s.respond r) = exec i s := by
  rw [exec_eq, exec_eq]
  exact congrArg Host.Outcome.next (loadedBy_respond_latch i s ⟨true, r⟩ _)

/-- A decoded command that leaves the registers answers the same state when it is issued again (R46). -/
theorem exec_idempotent {i : Instr} {s t : State} (hl : loadedBy i s = s) (h : exec i s = .next t) :
    exec i t = .next t := by
  have ht : .next (s.respond (responseOf i s.params s.keyed s.secret)) = (.next t : Result) := by
    rw [← h, exec_eq, hl]
  cases ht
  rw [exec_respond, h]

/-- Only SETKEY writes the registers. -/
theorem loadedBy_of_ne_setkey {i : Instr} (hi : ∀ op, i ≠ .setkey op) (s : State) : loadedBy i s = s := by
  obtain h | ⟨op, rfl, -⟩ := loadedBy_cases i s
  · exact h
  · exact absurd rfl (hi op)

/-- A SETKEY leaves the block keyed, whether it was accepted or refused (R141, R154). -/
theorem exec_setkey_keyed {op : Bytes8} {s t : State} (h : exec (.setkey op) s = .next t) : t.keyed = true := by
  rw [exec_eq] at h
  cases h
  cases hk : s.keyed <;> simp [loadedBy, hk]

/-- A SETKEY of a keyed block latches KEY_LOCKED and changes nothing else (R154). -/
theorem exec_setkey_locked {s : State} (hk : s.keyed = true) (op : Bytes8) :
    exec (.setkey op) s = .next (s.respond (raised .keyLocked)) := by
  rw [exec_eq, loadedBy_keyed hk]
  simp [responseOf, hk]

/-! ### Order -/

/-- With well-formed parameters a step performs the decoded command at the head of the port (R46, R47). -/
theorem step_of_command {s : State} {cmd : Command} {rest : List HostEvent} {i : Instr} (hw : s.params.wf = true)
    (hp : s.port = .command cmd :: rest) (hd : decode cmd = .command i) : step s = exec i { s with port := rest } := by
  rw [step_of_port_cons hw hp]
  simp only [serve, perform, hd]

/-- The register writes of a command do not depend on the host's later acts. -/
theorem loadedBy_withPort (i : Instr) (s : State) (es : List HostEvent) :
    loadedBy i { s with port := es } = { loadedBy i s with port := es } := by
  cases i with
  | setkey op => cases h : s.keyed <;> simp [loadedBy, h, State.loadSecret]
  | _ => rfl

/-- Performing a command does not depend on the host's later acts. -/
theorem perform_withPort {cmd : Command} {s t : State} (h : perform cmd s = .next t) (es : List HostEvent) :
    perform cmd { s with port := es } = .next { t with port := es } := by
  unfold perform at h ⊢
  cases hd : decode cmd with
  | command i =>
    simp only [hd, exec_eq] at h ⊢
    cases h
    rw [loadedBy_withPort]
    rfl
  | rejected e =>
    simp only [hd] at h ⊢
    cases h
    rfl

/-- Serving an event that goes on does not depend on the host's later acts (R47). -/
theorem serve_withPort {e : HostEvent} {s t : State} (h : serve e s = .next t) (es : List HostEvent) :
    serve e { s with port := es } = .next { t with port := es } := by
  cases e with
  | command cmd => exact perform_withPort h es
  | reset lost =>
    cases h
    rfl
  | readOut =>
    cases hv : s.out.valid with
    | false => cases (hostRead_empty hv).symm.trans h
    | true =>
      cases (hostRead_valid hv).symm.trans h
      exact hostRead_valid hv

/-- Serving a list whose first event goes on is serving the others from there. -/
theorem serveAll_cons_of_next {e : HostEvent} {s t : State} (h : serve e s = .next t) (es : List HostEvent) :
    serveAll (e :: es) s = serveAll es t := by
  rw [serveAll, h]

/-- Serving a list whose first event faults is that fault. -/
theorem serveAll_cons_of_fault {e : HostEvent} {s : State} {f : Fault} (h : serve e s = .fault f)
    (es : List HostEvent) : serveAll (e :: es) s = .fault f := by
  rw [serveAll, h]

/-- A run of as many steps as there are events `es` at the head of the port serves them in order (R47). -/
theorem runs_eq_serveAll (es rest : List HostEvent) {s : State} (hw : s.params.wf = true) :
    runs es.length { s with port := es ++ rest } = serveAll es { s with port := rest } := by
  induction es generalizing s with
  | nil => rfl
  | cons e es ih =>
    have hstep : step { s with port := e :: es ++ rest } = serve e { s with port := es ++ rest } :=
      step_of_port_cons (s := { s with port := e :: es ++ rest }) hw rfl
    rw [List.length_cons]
    obtain ⟨t, ht⟩ | ⟨rfl, hv, hf⟩ := serve_next_or_fault e { s with port := rest }
    · have hport : ({ t with port := rest } : State) = t := by rw [← show t.port = rest from serve_port ht]
      rw [runs_succ_of_next (hstep.trans (serve_withPort ht (es ++ rest))), serveAll_cons_of_next ht,
        ih (by rw [serve_params ht]; exact hw), hport]
    · rw [runs_succ, hstep, serveAll_cons_of_fault hf]
      simp only [serve]
      rw [hostRead_empty (s := { s with port := es ++ rest }) hv]

end Machine

end Sys2Proof

open Sys2Proof Sys2Proof.Machine

/-- Settles O9: a word is determined by its lanes, and packing puts frame byte i in lane i. -/
theorem resultLaneOrder : Obligations.ResultLaneOrder :=
  ⟨fun _ _ => rfl, bytes_get_result, resultLane_laneWord, laneWord_resultLanes⟩

/-- Settles O52: no command depends on the old latch, and only the first SETKEY writes the registers. -/
theorem commandsAreIdempotent : Obligations.CommandsAreIdempotent := by
  unfold Obligations.CommandsAreIdempotent
  refine ⟨fun i s t hi h => exec_idempotent (loadedBy_of_ne_setkey hi s) h, fun op s t h => ?_⟩
  have hk : t.keyed = true := exec_setkey_keyed h
  have hu := exec_setkey_locked hk op
  exact ⟨_, hu, rfl, rfl, rfl, exec_idempotent (loadedBy_keyed hk) hu⟩

/-- Settles O53, by induction on the events: each is served alike whatever the host does after it. -/
theorem eventsTakeEffectInOrder : Obligations.EventsTakeEffectInOrder :=
  fun es rest _ hw => runs_eq_serveAll es rest hw

/-- Settles O6: the length decides between the decoding of nine bytes and the rejection by name. -/
theorem onlyNineBytesAreACommand : Obligations.OnlyNineBytesAreACommand :=
  ⟨fun _ => decodeBytes_wrong_length, decodeBytes_toList⟩

/-- Settles O11: the step serves the head of the port, and a command is performed as what it decodes to. -/
theorem stepPerformsDecodedCommand : Obligations.StepPerformsDecodedCommand := by
  unfold Obligations.StepPerformsDecodedCommand
  exact ⟨fun _ _ _ _ => step_of_command, fun s nbits w _ hw h =>
    step_of_command (s := s.withFetchWord nbits w) hw rfl (decode_tableCommand h)⟩

/-- Settles O18: with an empty port the step serves nothing. -/
theorem idleStepChangesNothing : Obligations.IdleStepChangesNothing := fun _ => step_of_port_nil
end

section
/-! The command format CMD9 (R50 to R54): the decoder and the encoder, the 72-bit word, and the reserved opcodes. -/

namespace Sys2Proof

/-- Nine bytes decode to exactly the instruction whose opcode and operand lanes they hold (R50, R52). -/
theorem decode_command_iff {cmd : Command} {i : Instr} :
    decode cmd = .command i ↔ Command.opc cmd = i.opcode ∧ Command.operand cmd = i.op := by
  refine ⟨decode_command, fun ⟨hopc, hop⟩ => ?_⟩
  unfold decode
  rw [hopc, hop]
  cases i <;> rfl

/-- The six opcodes of the map are 0x01 to 0x06 (R52). -/
theorem opcode_toNat_bounds (i : Instr) : 0x01 ≤ i.opcode.toNat ∧ i.opcode.toNat ≤ 0x06 := by
  cases i <;> simp [Instr.opcode]

/-- A rejection of nine bytes names their opcode. -/
theorem decode_rejected_name {cmd : Command} {e : DecodeError} (h : decode cmd = .rejected e) :
    e = .reservedOpcode (Command.opc cmd) := by
  unfold decode at h
  split at h <;> cases h
  rfl

/-- The rejected commands are those with a reserved opcode, and the rejection names it (R54). -/
theorem decode_rejected_iff {cmd : Command} :
    decode cmd = .rejected (.reservedOpcode (Command.opc cmd)) ↔
      (Command.opc cmd).toNat = 0x00 ∨ 0x07 ≤ (Command.opc cmd).toNat := by
  refine ⟨decode_rejected, fun hreserved => ?_⟩
  cases hd : decode cmd with
  | command i =>
    obtain ⟨hopc, -⟩ := decode_command hd
    have hbounds := opcode_toNat_bounds i
    rw [← hopc] at hbounds
    omega
  | rejected e => rw [decode_rejected_name hd]

/-- The Boolean test of R54 says what the claims write out. -/
theorem reservedOpcode_iff (opc : Byte) : reservedOpcode opc = true ↔ opc.toNat = 0x00 ∨ 0x07 ≤ opc.toNat := by
  simp [reservedOpcode, BitVec.toNat_eq]

/-- Operand lane i is command byte 1 + i (R50). -/
theorem operand_get (cmd : Command) (i : Fin 8) : (Command.operand cmd).get i = cmd.get i.succ := by
  fin_cases i <;> rfl

/-- Byte k of the 72-bit word is command byte k (R50). -/
theorem word_extractLsb' (cmd : Command) (k : Fin 9) : (Command.word cmd).extractLsb' (8 * k.val) 8 = cmd.get k := by
  unfold Command.word
  rw [BitVec.setWidth_eq]
  fin_cases k <;>
    simp (disch := decide) only [BitVec.extractLsb'_append_eq_of_le, BitVec.extractLsb'_append_eq_of_add_le] <;>
    exact BitVec.extractLsb'_eq_self

/-- The word of a command gives the command back. -/
theorem ofWord_word (cmd : Command) : Command.ofWord (Command.word cmd) = cmd := by
  apply Vector.ext
  intro k hk
  rw [Command.ofWord, Vector.getElem_ofFn]
  exact word_extractLsb' cmd ⟨k, hk⟩

namespace Machine

/-- A command with a reserved opcode is performed as ILLEGAL_OPCODE, whatever its operand (R54, R152). -/
theorem perform_reserved {cmd : Command}
    (h : (Command.opc cmd).toNat = 0x00 ∨ 0x07 ≤ (Command.opc cmd).toNat) (s : State) :
    perform cmd s = execReserved s := by
  simp only [perform, decode_rejected_iff.2 h]

/-- Two instructions with the same register writes and the same response have the same outcome. -/
theorem exec_congr {i i' : Instr} {s : State} (hl : loadedBy i s = loadedBy i' s)
    (hr : responseOf i s.params s.keyed s.secret = responseOf i' s.params s.keyed s.secret) :
    exec i s = exec i' s := by
  rw [exec_eq, exec_eq, hl, hr]

/-! ### What the heuristic, the validator and the classifier read of a frame -/

/-- The heuristic reads byte 4 only (R90). -/
theorem looksObfuscated_congr {f f' : Bytes8} (h4 : f[4] = f'[4]) : looksObfuscated f = looksObfuscated f' := by
  rw [looksObfuscated, looksObfuscated, h4]

/-- The validator reads bytes 0 to 4 only (R100, R101). -/
theorem validate_congr {f f' : Bytes8} (h0 : f[0] = f'[0]) (h1 : f[1] = f'[1]) (h2 : f[2] = f'[2]) (h3 : f[3] = f'[3])
    (h4 : f[4] = f'[4]) : Machine.validate f = Machine.validate f' := by
  have hsum : checksum f = checksum f' := by rw [checksum, checksum, h0, h1, h2]
  rw [Machine.validate, Machine.validate, hsum, h3, looksObfuscated_congr h4]

/-- The Record of a frame reads bytes 0 to 2 only (R110). -/
theorem recordOfFrame_congr {f f' : Bytes8} (h0 : f[0] = f'[0]) (h1 : f[1] = f'[1]) (h2 : f[2] = f'[2]) :
    recordOfFrame f = recordOfFrame f' := by
  simp only [recordOfFrame, h0, h1, h2]

/-- The value of a Record is high byte first and fits its 16 bits (R42, R110). -/
theorem recordOfFrame_value_toNat (f : Bytes8) :
    (recordOfFrame f).value.toNat = (f[1]).toNat * 256 + (f[2]).toNat := by
  have h1 := (f[1]).isLt
  have h2 := (f[2]).isLt
  rw [recordOfFrame, BitVec.toNat_ofNat]
  omega

/-! ### The response bytes -/

/-- Bit 0 of FLAGS is FLAG (R51). -/
theorem flagsByte_bit_zero (flag : Bool) : (flagsByte flag).getLsbD 0 = flag := by
  cases flag <;> rfl

/-- Bits 7:1 of FLAGS are 0 (R51). -/
theorem flagsByte_bit_pos (flag : Bool) {k : Nat} (hk : 1 ≤ k) : (flagsByte flag).getLsbD k = false := by
  cases flag with
  | false => exact BitVec.getLsbD_zero
  | true =>
    have hk0 : k ≠ 0 := by omega
    simp [flagsByte, BitVec.getLsbD_one, hk0]

/-- A read of a valid latch delivers the bytes of its response (R23). -/
theorem read_of_valid {o : Out} (h : o.valid = true) : o.read = .ok o.resp.bytes := by
  simp [Out.read, h]

end Machine

end Sys2Proof

open Sys2Proof Sys2Proof.Machine

/-- Settles O1: the encoding holds the opcode and every operand lane, which is all the decoder asks for. -/
theorem decodeOfEncodeIsIdentity : Obligations.DecodeOfEncodeIsIdentity :=
  fun i => decode_command_iff.2 ⟨make_opc i.opcode i.op, make_operand i.opcode i.op⟩

/-- Settles O2: nine bytes are their opcode and operand lanes, and the decoded instruction has both. -/
theorem encodeOfDecodeIsIdentity : Obligations.EncodeOfDecodeIsIdentity := by
  unfold Obligations.EncodeOfDecodeIsIdentity
  intro cmd i h
  obtain ⟨hopc, hop⟩ := decode_command h
  rw [encode, ← hopc, ← hop, make_of_parts]

/-- Settles O3: OPC is byte 0 of the word and operand lane i its byte 1 + i. -/
theorem commandWordLayout : Obligations.CommandWordLayout := by
  unfold Obligations.CommandWordLayout
  exact fun cmd => ⟨word_extractLsb' cmd, word_extractLsb' cmd 0,
    fun i => (word_extractLsb' cmd i.succ).trans (operand_get cmd i).symm, ofWord_word cmd⟩

/-- Settles O5: a decoded command has an opcode of the map, and a rejected one is named by its opcode. -/
theorem reservedOpcodesAreRejectedByName : Obligations.ReservedOpcodesAreRejectedByName :=
  fun _ => decode_rejected_iff

/-- Settles O4: the decoder evaluates each written-out word. -/
theorem sampleWordsDecode : Obligations.SampleWordsDecode := by
  unfold Obligations.SampleWordsDecode
  refine ⟨?_, ?_, ?_, ?_, ?_, ?_, ?_, ?_, ?_⟩ <;> decide

/-- Settles O7: frame and secret operands are the lanes themselves, and the 16-bit value does not wrap. -/
theorem operandAssembly : Obligations.OperandAssembly :=
  fun op => ⟨fun _ => rfl, fun _ => rfl, rfl, recordOfFrame_value_toNat op, rfl, recordOfFrame_value_toNat op⟩

/-- Settles O8: the bytes are those of the format, and every command leaves a valid latch. -/
theorem responseFormat : Obligations.ResponseFormat := by
  unfold Obligations.ResponseFormat
  refine ⟨fun r => ⟨rfl, rfl, flagsByte_bit_zero r.flag, fun _ => flagsByte_bit_pos r.flag, bytes_get_result r⟩,
    fun cmd s => ?_⟩
  obtain ⟨t, ht, hvalid⟩ := perform_next cmd s
  exact ⟨t, ht, read_of_valid hvalid⟩

/-- Settles O10: each code and label is the spec's value by definition. -/
theorem codeValues : Obligations.CodeValues :=
  ⟨rfl, rfl, rfl, rfl, rfl, rfl, rfl, rfl, rfl, rfl, rfl, rfl, rfl⟩

/-- Settles O28: the response of a command depends on the lanes it reads, and a reserved opcode's on none. -/
theorem ignoredLanesHaveNoEffect : Obligations.IgnoredLanesHaveNoEffect := by
  unfold Obligations.IgnoredLanesHaveNoEffect
  refine fun op op' s => ⟨fun h4 => exec_congr rfl ?_, fun h0 h1 h2 h3 h4 => exec_congr rfl ?_,
    fun h0 h1 h2 => exec_congr rfl ?_, fun opc hopc => ?_⟩
  · simp only [responseOf, looksObfuscated_congr h4]
  · simp only [responseOf, validate_congr h0 h1 h2 h3 h4]
  · simp only [responseOf, recordOfFrame_congr h0 h1 h2]
  · have hreserved := (reservedOpcode_iff opc).1 hopc
    rw [perform_reserved (cmd := Command.make opc op) hreserved, perform_reserved (cmd := Command.make opc op') hreserved]
end

section
/-! The Deobfuscator (40_deobfuscator.md): what each of its steps does at one position (R71 to R75), the laws derived from
that (R76 to R78, R80), and the command DEOBF (R79). -/

namespace Sys2Proof.Machine

/-! ### Step 1, the scatter through PERM, and step 2 -/

theorem set_get_self (x : Bytes8) (b : Byte) (k : Fin 8) : (x.set k b).get k = b :=
  Vector.getElem_set_self k.isLt

theorem set_get_of_ne (x : Bytes8) (b : Byte) {k a : Fin 8} (h : k ≠ a) : (x.set a b).get k = x.get k :=
  Vector.getElem_set_ne a.isLt k.isLt (Fin.val_ne_of_ne h.symm)

/-- The scatter loop run over a list of frame positions: the byte at `perm i` is `f i` once position `i` has been met, and until
then what the buffer held. -/
theorem scatter_get {perm : Vector (Fin 8) 8} (hperm : Function.Injective perm.get) (f : Bytes8) (i : Fin 8)
    (l : List (Fin 8)) (pb : Bytes8) :
    (l.foldl (fun pb i => pb.set (perm.get i) (f.get i)) pb).get (perm.get i) =
      if i ∈ l then f.get i else pb.get (perm.get i) := by
  induction l generalizing pb with
  | nil => simp
  | cons a l ih =>
    rw [List.foldl_cons, ih]
    obtain rfl | hia := eq_or_ne i a
    · simp [set_get_self]
    · simp [hia, set_get_of_ne pb (f.get a) (hperm.ne hia)]

/-- Step 1 moves frame byte i to position PERM[i] (R71). -/
theorem permute_get {perm : Vector (Fin 8) 8} (hperm : Function.Injective perm.get) (f : Bytes8) (i : Fin 8) :
    (permute perm f).get (perm.get i) = f.get i := by
  rw [permute, scatter_get hperm, if_pos (List.mem_finRange i)]

/-- The mixed buffer holds frame byte i at PERM[i], under the secret byte of that position (R71, R72). -/
theorem mixedBuffer_get {p : Params} (hperm : Function.Injective p.perm.get) (s f : Bytes8) (i : Fin 8) :
    (mixedBuffer p s f).get (p.perm.get i) = f.get i ^^^ s.get (p.perm.get i) := by
  rw [mixedBuffer, mixSecret, buffer_get, permute_get hperm]

/-- An injective PERM reaches every position, so buffers that agree at every PERM[i] are the same buffer. -/
theorem bytes8_ext_perm {perm : Vector (Fin 8) 8} (hperm : Function.Injective perm.get) {x y : Bytes8}
    (h : ∀ i : Fin 8, x.get (perm.get i) = y.get (perm.get i)) : x = y :=
  bytes8_ext ((Finite.surjective_of_injective hperm).forall.2 h)

/-! ### Step 3, shift and merge -/

/-- Step 3 undone: the shifts of R80. -/
def shiftSplit (rb : Bytes8) : Bytes8 := buffer fun i => (rb.get i <<< 3) ||| (rb.get (i + 1) >>> 5)

/-- The two parts of a merged byte, in integer arithmetic; steps 3 and 4 both have this form (R73, R74). -/
theorem merge_toNat (x y : Byte) (a b : Nat) :
    (x >>> a ||| y <<< b).toNat = (x.toNat >>> a ||| y.toNat <<< b) &&& 0xFF := by
  have hx : x.toNat >>> a < 2 ^ 8 := lt_of_le_of_lt (Nat.shiftRight_le _ _) x.isLt
  have hmask : ∀ n : Nat, n &&& 0xFF = n % 2 ^ 8 := fun n => Nat.and_two_pow_sub_one_eq_mod n 8
  rw [hmask, BitVec.toNat_or, BitVec.toNat_ushiftRight, BitVec.toNat_shiftLeft, Nat.or_mod_two_pow (n := 8),
    Nat.mod_eq_of_lt hx]

/-- Bits 7:3 of the first byte are read back from the merged byte, whatever the second was. -/
theorem merge_shiftLeft_three (x y : Byte) : (x >>> 3 ||| y <<< 5) <<< 3 = x &&& 0xF8#8 := by
  have hhigh : ∀ x : Byte, x >>> 3 <<< 3 = x &&& 0xF8#8 := by decide
  have hgone : ∀ y : Byte, y <<< 5 <<< 3 = 0#8 := by decide
  rw [BitVec.shiftLeft_or_distrib, hhigh, hgone, BitVec.or_zero]

/-- Bits 2:0 of the second byte are read back from the merged byte, whatever the first was. -/
theorem merge_shiftRight_five (x y : Byte) : (x >>> 3 ||| y <<< 5) >>> 5 = y &&& 0x07#8 := by
  have hlow : ∀ y : Byte, y <<< 5 >>> 5 = y &&& 0x07#8 := by decide
  have hgone : ∀ x : Byte, x >>> 3 >>> 5 = 0#8 := by decide
  rw [BitVec.ushiftRight_or_distrib, hlow, hgone, BitVec.zero_or]

/-- A byte is its bits 7:3 and its bits 2:0. -/
theorem high_or_low (x : Byte) : x &&& 0xF8#8 ||| x &&& 0x07#8 = x := by
  revert x
  decide

/-- A byte is given back by the two bytes it was split over, whatever they hold beside it (R80). -/
theorem merge_of_split (x y z : Byte) : (x <<< 3 ||| y >>> 5) >>> 3 ||| (z <<< 3 ||| x >>> 5) <<< 5 = x := by
  have hlow : ∀ y : Byte, y >>> 5 >>> 3 = 0#8 := by decide
  have hhigh : ∀ z : Byte, z <<< 3 <<< 5 = 0#8 := by decide
  have hparts : ∀ x : Byte, x <<< 3 >>> 3 ||| x >>> 5 <<< 5 = x := by decide
  rw [BitVec.ushiftRight_or_distrib, BitVec.shiftLeft_or_distrib, hlow, hhigh, BitVec.or_zero, BitVec.zero_or, hparts]

/-- A merged byte is bits 7:3 of the one byte and bits 2:0 of the other, and nothing else of them (R73). -/
theorem merge_eq_iff (x y x' y' : Byte) :
    x >>> 3 ||| y <<< 5 = x' >>> 3 ||| y' <<< 5 ↔ x &&& 0xF8#8 = x' &&& 0xF8#8 ∧ y &&& 0x07#8 = y' &&& 0x07#8 := by
  have hhigh : ∀ x : Byte, (x &&& 0xF8#8) >>> 3 = x >>> 3 := by decide
  have hlow : ∀ y : Byte, (y &&& 0x07#8) <<< 5 = y <<< 5 := by decide
  constructor
  · intro h
    rw [← merge_shiftLeft_three x y, ← merge_shiftLeft_three x' y', ← merge_shiftRight_five x y,
      ← merge_shiftRight_five x' y', h]
    exact ⟨rfl, rfl⟩
  · rintro ⟨hx, hy⟩
    rw [← hhigh x, ← hlow y, hx, hy, hhigh, hlow]

/-- Two bytes with the same bits 7:3 and the same bits 2:0 are the same byte. -/
theorem byte_eq_of_parts {x x' : Byte} (hhigh : x &&& 0xF8#8 = x' &&& 0xF8#8) (hlow : x &&& 0x07#8 = x' &&& 0x07#8) :
    x = x' := by
  rw [← high_or_low x, hhigh, hlow, high_or_low]

/-- Step 3 undone after step 3: each byte is put together from the two bytes it was shared out to. -/
theorem shiftSplit_shiftMerge (mb : Bytes8) : shiftSplit (shiftMerge mb) = mb := by
  apply bytes8_ext
  intro i
  simp only [shiftSplit, shiftMerge, buffer_get, add_sub_cancel_right, merge_shiftLeft_three, merge_shiftRight_five,
    high_or_low]

/-- Step 3 after step 3 undone. -/
theorem shiftMerge_shiftSplit (rb : Bytes8) : shiftMerge (shiftSplit rb) = rb := by
  apply bytes8_ext
  intro i
  simp only [shiftSplit, shiftMerge, buffer_get, sub_add_cancel, merge_of_split]

/-- What output byte k of steps 3 and 5 depends on: bits 7:3 of MB[k] and bits 2:0 of its predecessor (R77). -/
theorem combine_shiftMerge_get_eq_iff (mb mb' ks : Bytes8) (k : Fin 8) :
    (combine (shiftMerge mb) ks).get k = (combine (shiftMerge mb') ks).get k ↔
      mb.get k &&& 0xF8#8 = mb'.get k &&& 0xF8#8 ∧ mb.get (k - 1) &&& 0x07#8 = mb'.get (k - 1) &&& 0x07#8 := by
  rw [combine_get, combine_get, sub_left_inj, shiftMerge, shiftMerge, buffer_get, buffer_get, merge_eq_iff]

/-- Buffers that differ at j only, and there only outside a mask, agree under that mask everywhere. -/
theorem masked_get_eq {mb mb' : Bytes8} {j : Fin 8} {mask : Byte} (hother : ∀ k, k ≠ j → mb.get k = mb'.get k)
    (hj : mb.get j &&& mask = mb'.get j &&& mask) (k : Fin 8) : mb.get k &&& mask = mb'.get k &&& mask := by
  obtain rfl | hk := eq_or_ne k j
  · exact hj
  · rw [hother k hk]

/-- A change of MB[j] in bits 7:3 alone changes exactly O[j] (R77). -/
theorem combine_high_change {mb mb' : Bytes8} {j : Fin 8} (hother : ∀ k, k ≠ j → mb.get k = mb'.get k)
    (hj : mb.get j ≠ mb'.get j) (hlow : mb.get j &&& 0x07#8 = mb'.get j &&& 0x07#8) (ks : Bytes8) (k : Fin 8) :
    (combine (shiftMerge mb) ks).get k ≠ (combine (shiftMerge mb') ks).get k ↔ k = j := by
  rw [Ne, combine_shiftMerge_get_eq_iff, and_iff_left (masked_get_eq hother hlow (k - 1))]
  obtain rfl | hk := eq_or_ne k j
  · exact iff_of_true (fun h => hj (byte_eq_of_parts h hlow)) rfl
  · simp [hother k hk, hk]

/-- A change of MB[j] in bits 2:0 alone changes exactly O[j + 1] (R77). -/
theorem combine_low_change {mb mb' : Bytes8} {j : Fin 8} (hother : ∀ k, k ≠ j → mb.get k = mb'.get k)
    (hj : mb.get j ≠ mb'.get j) (hhigh : mb.get j &&& 0xF8#8 = mb'.get j &&& 0xF8#8) (ks : Bytes8) (k : Fin 8) :
    (combine (shiftMerge mb) ks).get k ≠ (combine (shiftMerge mb') ks).get k ↔ k = j + 1 := by
  rw [Ne, combine_shiftMerge_get_eq_iff, and_iff_right (masked_get_eq hother hhigh k), ← sub_eq_iff_eq_add]
  obtain hk | hk := eq_or_ne (k - 1) j
  · rw [hk]
    exact iff_of_true (fun h => hj (byte_eq_of_parts hhigh h)) rfl
  · simp [hother _ hk, hk]

/-- Lane i of a word rotated right by 3 bits merges lane i with its successor lane. -/
theorem resultLane_rotate (w : Word64) (i : Fin 8) :
    resultLane (w >>> 3 ||| w <<< 61) i = resultLane w i >>> 3 ||| resultLane w (i + 1) <<< 5 := by
  have hsucc : (i + 1).val = (i.val + 1) % 8 := by rw [Fin.val_add]; rfl
  apply BitVec.eq_of_getLsbD_eq
  intro j hj
  have hi := i.isLt
  rw [resultLane_getLsbD _ _ hj]
  simp only [BitVec.getLsbD_or, BitVec.getLsbD_ushiftRight, BitVec.getLsbD_shiftLeft]
  obtain hlow | hhigh := lt_or_ge j 5
  · have hlane : 3 + j < 8 := by omega
    have hword : 8 * i.val + j < 61 := by omega
    simp [hlow, hword, resultLane_getLsbD _ _ hlane, Nat.add_left_comm]
  · have hlane : j - 5 < 8 := by omega
    rw [resultLane_getLsbD _ _ hlane, hsucc, BitVec.getLsbD_of_ge (resultLane w i) _ (by omega)]
    obtain h7 | h7 := Nat.lt_or_ge i.val 7
    · have hword : 8 * i.val + j < 61 := by omega
      have hbit : 3 + (8 * i.val + j) = 8 * ((i.val + 1) % 8) + (j - 5) := by omega
      simp [hword, hj, Nat.not_lt.2 hhigh, hbit]
    · have hword : ¬ 8 * i.val + j < 61 := by omega
      have hlt : 8 * i.val + j < 64 := by omega
      have hbit : 8 * i.val + j - 61 = 8 * ((i.val + 1) % 8) + (j - 5) := by omega
      rw [BitVec.getLsbD_of_ge w _ (by omega), hbit]
      simp [hword, hj, hlt, Nat.not_lt.2 hhigh]

/-- The word with byte 0 most significant (R76) packs the buffer in reversed order. -/
theorem word_msb_first (b : Bytes8) :
    (b[0] ++ b[1] ++ b[2] ++ b[3] ++ b[4] ++ b[5] ++ b[6] ++ b[7]).setWidth 64 =
      laneWord (buffer fun i => b.get i.rev) := rfl

/-! ### The whole transform and its inverse -/

/-- Byte i of an obfuscated frame, in terms of steps 5 and 3 undone (R80). -/
theorem obfuscate_get (p : Params) (s o : Bytes8) (i : Fin 8) :
    (obfuscate p s o).get i =
      (shiftSplit (buffer fun j => o.get j + (keystream p.kconst).get j)).get (p.perm.get i) ^^^ s.get (p.perm.get i) := by
  simp only [obfuscate, shiftSplit, buffer_get]

/-- Obfuscation prepares a frame whose mixed buffer is step 5 and step 3 undone (R80). -/
theorem mixedBuffer_obfuscate {p : Params} (hperm : Function.Injective p.perm.get) (s o : Bytes8) :
    mixedBuffer p s (obfuscate p s o) = shiftSplit (buffer fun j => o.get j + (keystream p.kconst).get j) := by
  apply bytes8_ext_perm hperm
  intro i
  rw [mixedBuffer_get hperm, obfuscate_get, BitVec.xor_assoc, BitVec.xor_self, BitVec.xor_zero]

/-- `deobfuscate(S, obfuscate(S, O)) = O` (R80). -/
theorem deobfuscate_obfuscate {p : Params} (hperm : Function.Injective p.perm.get) (s o : Bytes8) :
    deobfuscate p s (obfuscate p s o) = o := by
  rw [deobfuscate, mixedBuffer_obfuscate hperm, shiftMerge_shiftSplit]
  apply bytes8_ext
  intro i
  rw [combine_get, buffer_get, add_sub_cancel_right]

/-- Adding the keystream to a deobfuscated frame undoes step 5 (R80). -/
theorem deobfuscate_add_keystream (p : Params) (s f : Bytes8) :
    (buffer fun j => (deobfuscate p s f).get j + (keystream p.kconst).get j) = shiftMerge (mixedBuffer p s f) := by
  apply bytes8_ext
  intro i
  rw [buffer_get, deobfuscate, combine_get, sub_add_cancel]

/-- The other direction: `deobfuscate(S, ·)` loses nothing (R80). -/
theorem obfuscate_deobfuscate {p : Params} (hperm : Function.Injective p.perm.get) (s f : Bytes8) :
    obfuscate p s (deobfuscate p s f) = f := by
  apply bytes8_ext
  intro i
  rw [obfuscate_get, deobfuscate_add_keystream, shiftSplit_shiftMerge, mixedBuffer_get hperm, BitVec.xor_assoc,
    BitVec.xor_self, BitVec.xor_zero]

/-- A mask XORed into the secret and, through PERM, into the frame leaves the mixed buffer as it is (R78). -/
theorem mixedBuffer_mask {p : Params} (hperm : Function.Injective p.perm.get) (s f mask : Bytes8) :
    mixedBuffer p (buffer fun i => s.get i ^^^ mask.get i) (buffer fun i => f.get i ^^^ mask.get (p.perm.get i)) =
      mixedBuffer p s f := by
  apply bytes8_ext_perm hperm
  intro i
  rw [mixedBuffer_get hperm, mixedBuffer_get hperm, buffer_get, buffer_get]
  have hpair : ∀ x y m : Byte, x ^^^ m ^^^ (y ^^^ m) = x ^^^ y ^^^ (m ^^^ m) := by
    intro x y m
    ac_rfl
  rw [hpair, BitVec.xor_self, BitVec.xor_zero]

/-- The secret can be moved into the frame: the mixed buffer is that of secret 0 (R78). -/
theorem mixedBuffer_secret_in_frame {p : Params} (hperm : Function.Injective p.perm.get) (s f : Bytes8) :
    mixedBuffer p s f = mixedBuffer p (buffer fun _ => 0) (buffer fun i => f.get i ^^^ s.get (p.perm.get i)) := by
  apply bytes8_ext_perm hperm
  intro i
  rw [mixedBuffer_get hperm, mixedBuffer_get hperm, buffer_get, buffer_get]
  exact BitVec.xor_zero.symm

/-- A change of frame byte i reaches the mixed buffer at PERM[i] only (R77). -/
theorem mixedBuffer_locality {p : Params} (hperm : Function.Injective p.perm.get) (s : Bytes8) {f f' : Bytes8} {i : Fin 8}
    (hf : ∀ k, k ≠ i → f.get k = f'.get k) {k : Fin 8} (hk : k ≠ p.perm.get i) :
    (mixedBuffer p s f).get k = (mixedBuffer p s f').get k := by
  obtain ⟨a, rfl⟩ := Finite.surjective_of_injective hperm k
  rw [mixedBuffer_get hperm, mixedBuffer_get hperm, hf a fun h => hk (by rw [h])]

end Sys2Proof.Machine

open Sys2Proof Sys2Proof.Machine

/-- Settles O33: each step has its inverse, and an injective PERM makes the scatter and the gather inverse to each other. -/
theorem obfuscateInvertsDeobfuscate : Obligations.ObfuscateInvertsDeobfuscate := by
  unfold Obligations.ObfuscateInvertsDeobfuscate
  intro p s hperm
  exact ⟨deobfuscate_obfuscate hperm s, obfuscate_deobfuscate hperm s⟩

/-- Settles O29: the buffers are those of the definition. -/
theorem deobfuscateStepByStep : Obligations.DeobfuscateStepByStep := by
  unfold Obligations.DeobfuscateStepByStep
  intro p s f hperm
  have hpred : ∀ i : Fin 8, i - 1 = ⟨(i.val + 7) % 8, Nat.mod_lt _ (by decide)⟩ := by decide
  refine ⟨permute p.perm f, mixedBuffer p s f, shiftMerge (mixedBuffer p s f), keystream p.kconst,
    permute_get hperm f, fun i => ?_, fun i => ?_, fun i => ?_, fun i => ?_⟩
  · rw [mixedBuffer, mixSecret, buffer_get]
  · rw [shiftMerge, buffer_get, merge_toNat, hpred]
  · rw [keystream, buffer_get, merge_toNat]
  · rw [deobfuscate, combine, buffer_get, BitVec.toNat_ofNat]

/-- Settles O30: lane by lane, since the lanes of the word are the bytes in reversed order. -/
theorem shiftMergeIsWordRotation : Obligations.ShiftMergeIsWordRotation := by
  unfold Obligations.ShiftMergeIsWordRotation
  intro mb
  have hrev : ∀ i : Fin 8, i.rev - 1 = (i + 1).rev := by decide
  simp only [word_msb_first]
  apply word64_ext
  intro i
  simp only [resultLane_rotate, resultLane_laneWord, buffer_get, shiftMerge, hrev]

/-- Settles O31: an output byte depends on bits 7:3 of its own mixed byte and on bits 2:0 of the one before. -/
theorem errorLocality : Obligations.ErrorLocality := by
  unfold Obligations.ErrorLocality
  refine ⟨fun mb mb' ks j hother hj => ⟨fun hlow => combine_high_change hother hj hlow ks,
    fun hhigh => combine_low_change hother hj hhigh ks⟩, fun p s f f' i hperm hf => ?_⟩
  have hmb : ∀ k, k ≠ p.perm.get i → (mixedBuffer p s f).get k = (mixedBuffer p s f').get k :=
    fun _ => mixedBuffer_locality hperm s hf
  refine ⟨hmb, fun k hk hk' => (combine_shiftMerge_get_eq_iff _ _ _ k).2 ⟨?_, ?_⟩⟩
  · rw [hmb k hk]
  · rw [hmb (k - 1) fun h => hk' (sub_eq_iff_eq_add.1 h)]

/-- Settles O32: the mixed buffer, which is all the later steps read, is unchanged. -/
theorem secretCancellation : Obligations.SecretCancellation := by
  unfold Obligations.SecretCancellation
  refine ⟨fun p s f mask hperm => ⟨?_, ?_⟩, by decide, by decide⟩
  · rw [deobfuscate, mixedBuffer_mask hperm, deobfuscate]
  · rw [deobfuscate, mixedBuffer_secret_in_frame hperm, deobfuscate]

/-- Settles O20: a keyed block packs the deobfuscated frame lane by lane, an unkeyed one raises NO_KEY. -/
theorem deobfCommand : Obligations.DeobfCommand := by
  unfold Obligations.DeobfCommand
  refine ⟨fun cmd h => decode_command_iff.2 ⟨h, rfl⟩, fun op s hk => ?_, fun op s hk => ?_⟩
  · refine ⟨laneWord (deobfuscate s.params s.secret op), resultLane_laneWord _, ?_⟩
    rw [exec_eq, responseOf, if_pos hk]
    rfl
  · rw [exec_eq, responseOf, if_neg (by simp [hk])]
    rfl
end

section
/-! Settlements of the heuristic family (41_heuristic.md): the predicate of R90 and R91, and the command TESTOBF (R92). -/

open Sys2Proof Sys2Proof.Machine

/-- Settles O35: the heuristic is the test of byte 4 against the marker. -/
theorem heuristicReadsByteFour : Obligations.HeuristicReadsByteFour := by
  unfold Obligations.HeuristicReadsByteFour
  refine ⟨fun f => ?_, fun _ _ => looksObfuscated_congr⟩
  rw [looksObfuscated_eq, decide_eq_false_iff_not, not_not]

/-- Settles O21: TESTOBF loads no register, and its response reports the heuristic whatever the state. -/
theorem testobfCommand : Obligations.TestobfCommand := by
  unfold Obligations.TestobfCommand
  refine ⟨fun cmd h => decode_command_iff.2 ⟨h, rfl⟩, fun op s => ?_⟩
  rw [exec_eq, responseOf, looksObfuscated_eq]
  rfl
end

section
/-! Settlements of the validator family (42_validator.md): the checksum and the two checks of R100 to R102, and the command
VALIDATE (R103). -/

namespace Sys2Proof.Machine

/-- The checksum as an addition of bytes: the reduction of R100 is the wrap of the byte. -/
theorem checksum_eq_add (f : Bytes8) : checksum f = f[0] + f[1] + f[2] := by
  simp only [checksum, BitVec.ofNat_add, BitVec.ofNat_toNat, BitVec.setWidth_eq]

/-- The checksum as a number (R100). -/
theorem checksum_toNat (f : Bytes8) : (checksum f).toNat = ((f[0]).toNat + (f[1]).toNat + (f[2]).toNat) % 256 :=
  BitVec.toNat_ofNat _ 8

/-- A byte is the checksum exactly when it is the reduced sum as a number (R100). -/
theorem checksum_eq_iff (f : Bytes8) (b : Byte) :
    checksum f = b ↔ ((f[0]).toNat + (f[1]).toNat + (f[2]).toNat) % 256 = b.toNat := by
  rw [← BitVec.toNat_inj, checksum_toNat]

/-- The status of a frame by its two checks (R101). -/
theorem validate_eq_ite (f : Bytes8) :
    Machine.validate f = if checksum f = f[3] ∧ f[4] = 0x0D then .ok else .invalidFrame := by
  rw [Machine.validate, looksObfuscated_eq]
  by_cases hsum : checksum f = f[3] <;> by_cases hmark : f[4] = 0x0D <;> simp [hsum, hmark]

theorem validate_eq_ok_iff (f : Bytes8) : Machine.validate f = .ok ↔ checksum f = f[3] ∧ f[4] = 0x0D := by
  rw [validate_eq_ite]
  split
  · next h => exact iff_of_true rfl h
  · next h => exact iff_of_false nofun h

/-- There is no third status (R101). -/
theorem validate_eq_invalidFrame_iff (f : Bytes8) : Machine.validate f = .invalidFrame ↔ Machine.validate f ≠ .ok := by
  rcases validate_cases f with h | h <;> simp [h]

/-- The checksum determines each of bytes 0 to 3 from the other three: valid frames that agree elsewhere agree there too. -/
theorem get_eq_of_validate_ok {f g : Bytes8} {i : Fin 8} (hi : i.val ≤ 3) (hother : ∀ j, j ≠ i → f.get j = g.get j)
    (hf : Machine.validate f = .ok) (hg : Machine.validate g = .ok) : f.get i = g.get i := by
  obtain ⟨hsumf, -⟩ := (validate_eq_ok_iff f).1 hf
  obtain ⟨hsumg, -⟩ := (validate_eq_ok_iff g).1 hg
  have hf' : f.get 0 + f.get 1 + f.get 2 = f.get 3 := checksum_eq_add f ▸ hsumf
  have hg' : g.get 0 + g.get 1 + g.get 2 = g.get 3 := checksum_eq_add g ▸ hsumg
  have hcases : i = 0 ∨ i = 1 ∨ i = 2 ∨ i = 3 := by omega
  rcases hcases with rfl | rfl | rfl | rfl
  · rw [← hother 1 (by decide), ← hother 2 (by decide), ← hother 3 (by decide), ← hf'] at hg'
    exact (add_right_cancel (add_right_cancel hg')).symm
  · rw [← hother 0 (by decide), ← hother 2 (by decide), ← hother 3 (by decide), ← hf'] at hg'
    exact (add_left_cancel (add_right_cancel hg')).symm
  · rw [← hother 0 (by decide), ← hother 1 (by decide), ← hother 3 (by decide), ← hf'] at hg'
    exact (add_left_cancel hg').symm
  · rw [← hf', ← hg', hother 0 (by decide), hother 1 (by decide), hother 2 (by decide)]

/-- Flipping a bit changes the byte. -/
theorem flipBit_ne (x : Byte) (k : Fin 8) : x ^^^ (1#8 <<< k.val) ≠ x := by
  have hbit : ∀ k : Fin 8, 1#8 <<< k.val ≠ 0#8 := by decide
  exact fun h => hbit k (xor_left_eq_self_iff.1 h)

end Sys2Proof.Machine

open Sys2Proof Sys2Proof.Machine

/-- Settles O37: the validator reads bytes 0 to 4, and of two valid frames that differ in at most one of bytes 0 to 3 the
checksum leaves only one. -/
theorem validationDetectsSingleBitFlips : Obligations.ValidationDetectsSingleBitFlips := by
  unfold Obligations.ValidationDetectsSingleBitFlips
  refine ⟨fun f g h => ?_, fun f i k hf hi => ?_⟩
  · exact validate_congr (h 0 (by decide)) (h 1 (by decide)) (h 2 (by decide)) (h 3 (by decide)) (h 4 (by decide))
  · refine (validate_eq_invalidFrame_iff _).2 fun hg => ?_
    have hsame := get_eq_of_validate_ok hi (fun j hj => by rw [buffer_get, if_neg hj]) hg hf
    rw [buffer_get, if_pos rfl] at hsame
    exact flipBit_ne _ k hsame

/-- Settles O36: the two checks decide between the two statuses. -/
theorem validationIsBothChecks : Obligations.ValidationIsBothChecks := by
  unfold Obligations.ValidationIsBothChecks
  intro f
  exact ⟨checksum_toNat f, validate_eq_ok_iff f,
    (validate_eq_invalidFrame_iff f).trans (not_congr (validate_eq_ok_iff f))⟩

/-- Settles O22: VALIDATE loads no register, and its response reports the two checks whatever the state. -/
theorem validateCommand : Obligations.ValidateCommand := by
  unfold Obligations.ValidateCommand
  refine ⟨fun cmd h => decode_command_iff.2 ⟨h, rfl⟩, fun op s => ?_⟩
  rw [exec_eq, responseOf, validate_eq_ite]
  simp only [checksum_eq_iff]
  rfl
end

section
/-! Settlements of the classifier family (43_classifier.md): the constants and the ranges of the conversions (R111, R112, R115),
and the command CLASSIFY (R119). -/

namespace Sys2Proof

theorem bias_ge (fmt : MeasFloat) : 127 ≤ fmt.bias := by cases fmt <;> decide

/-- Both formats have at least the 24 bits of binary32. -/
theorem two_pow_24_le (fmt : MeasFloat) : 2 ^ 24 ≤ 2 ^ fmt.precision :=
  Nat.pow_le_pow_right (by norm_num) (by cases fmt <;> decide)

namespace Machine

/-! ### Values of a format, and rounding between them -/

/-- `r` is the value of some number of the format. -/
def FormatValue (fmt : MeasFloat) (r : ℚ) : Prop := ∃ y : Fp, y.Representable fmt ∧ y.rat = r

theorem Fp.Representable.formatValue {fmt : MeasFloat} {x : Fp} (hx : x.Representable fmt) : FormatValue fmt x.rat :=
  ⟨x, hx, rfl⟩

/-- A format is closed under negation. -/
theorem FormatValue.neg {fmt : MeasFloat} {r : ℚ} (h : FormatValue fmt r) : FormatValue fmt (-r) := by
  obtain ⟨y, hy, rfl⟩ := h
  refine ⟨⟨!y.neg, y.mant, y.exp⟩, hy, ?_⟩
  cases hneg : y.neg <;> simp [Fp.rat, hneg]

/-- Rounding to nearest does not go below a value of the format that the exact result reaches. -/
theorem Fp.NearestEven.le_rat {fmt : MeasFloat} {q r : ℚ} {x : Fp} (hx : x.NearestEven fmt q) (hr : FormatValue fmt r)
    (hle : r ≤ q) : r ≤ x.rat := by
  obtain ⟨y, hy, rfl⟩ := hr
  by_contra! hlt
  have hnear := (hx.2 y hy).1
  rw [abs_of_nonpos (by linarith), abs_of_nonpos (by linarith)] at hnear
  linarith

/-- Rounding to nearest does not go above a value of the format that bounds the exact result. -/
theorem Fp.NearestEven.rat_le {fmt : MeasFloat} {q r : ℚ} {x : Fp} (hx : x.NearestEven fmt q) (hr : FormatValue fmt r)
    (hle : q ≤ r) : x.rat ≤ r := by
  obtain ⟨y, hy, rfl⟩ := hr
  by_contra! hlt
  have hnear := (hx.2 y hy).1
  rw [abs_of_nonneg (by linarith), abs_of_nonneg (by linarith)] at hnear
  linarith

/-! ### Normal numbers -/

/-- A number of magnitude at least `2 ^ e` has its leading bit at `e` or above. -/
theorem Fp.Representable.lt_exp_add {fmt : MeasFloat} {x : Fp} (hx : x.Representable fmt) {e : Int}
    (he : (2 : ℚ) ^ e ≤ |x.rat|) : e < x.exp + fmt.precision := by
  have hmant : (x.mant : ℚ) < 2 ^ fmt.precision := by exact_mod_cast hx.1
  have hlt : (2 : ℚ) ^ e < 2 ^ (x.exp + fmt.precision) := by
    calc (2 : ℚ) ^ e ≤ x.mant * 2 ^ x.exp := abs_rat x ▸ he
      _ < 2 ^ fmt.precision * 2 ^ x.exp := by gcongr
      _ = 2 ^ (x.exp + fmt.precision) := by rw [zpow_add₀ two_ne_zero, zpow_natCast, mul_comm]
  exact (zpow_lt_zpow_iff_right₀ one_lt_two).1 hlt

/-- A number whose magnitude reaches the format's normal range has a full mantissa. -/
theorem Fp.Representable.full_of_le_abs {fmt : MeasFloat} {x : Fp} (hx : x.Representable fmt) {e : Int}
    (hnormal : 2 - (fmt.bias : Int) ≤ e) (he : (2 : ℚ) ^ e ≤ |x.rat|) : 2 ^ (fmt.precision - 1) ≤ x.mant := by
  refine hx.2.2.resolve_right fun hmin => ?_
  have hlt := hx.lt_exp_add he
  rw [hmin, MeasFloat.minExp] at hlt
  omega

/-- A number with a full mantissa and magnitude below `2 ^ e` has its leading bit below `e`. -/
theorem exp_add_lt_of_abs_lt {fmt : MeasFloat} {x : Fp} (hfull : 2 ^ (fmt.precision - 1) ≤ x.mant) {e : Int}
    (he : |x.rat| < (2 : ℚ) ^ e) : x.exp + (fmt.precision : Int) - 1 < e := by
  have hfull' : ((2 ^ (fmt.precision - 1) : Nat) : ℚ) ≤ x.mant := by exact_mod_cast hfull
  have hlt : (2 : ℚ) ^ (x.exp + (fmt.precision : Int) - 1) < 2 ^ e := by
    calc (2 : ℚ) ^ (x.exp + (fmt.precision : Int) - 1)
        = (2 ^ (fmt.precision - 1) : Nat) * 2 ^ x.exp := least_full_eq fmt x.exp
      _ ≤ x.mant * 2 ^ x.exp := by gcongr
      _ = |x.rat| := (abs_rat x).symm
      _ < 2 ^ e := he
  exact (zpow_lt_zpow_iff_right₀ one_lt_two).1 hlt

/-- A number of magnitude from 1/128 to below 4096 is normal and finite in both formats. -/
theorem Fp.Representable.normal_finite {fmt : MeasFloat} {x : Fp} (hx : x.Representable fmt) (hlow : 1 / 128 ≤ |x.rat|)
    (hhigh : |x.rat| < 4096) :
    2 ^ (fmt.precision - 1) ≤ x.mant ∧ x.exp + (fmt.precision : Int) - 1 ≤ (fmt.bias : Int) := by
  have hbias := bias_ge fmt
  have hfull := hx.full_of_le_abs (e := -7) (by omega) (by norm_num at hlow ⊢; exact hlow)
  have hexp := exp_add_lt_of_abs_lt hfull (e := 12) (by norm_num; exact hhigh)
  exact ⟨hfull, by omega⟩

/-- A number with a positive value has sign bit 0. -/
theorem neg_eq_false_of_rat_pos {x : Fp} (hx : 0 < x.rat) : x.neg = false := by
  by_contra hneg
  rw [Bool.not_eq_false] at hneg
  have hmag : 0 ≤ (x.mant : ℚ) * 2 ^ x.exp := by positivity
  rw [rat_eq_signFactor, hneg] at hx
  simp only [signFactor, if_true, Int.cast_neg, Int.cast_one] at hx
  linarith

/-! ### Dyadic values of both formats -/

/-- A natural number of at most 24 bits times a power of two of binary32's range is a value of both formats: moving the last
place of the number keeps its mantissa. -/
theorem formatValue_dyadic (fmt : MeasFloat) {n : Nat} (hn : n < 2 ^ 24) {e : Int} (he : -126 ≤ e) :
    FormatValue fmt (n * 2 ^ e) := by
  obtain rfl | hn0 := Nat.eq_zero_or_pos n
  · obtain ⟨y, hy, hrat⟩ := exists_representable_nat fmt (n := 0) (by positivity)
    exact ⟨y, hy, by simp [hrat]⟩
  · obtain ⟨y, hy, hrat⟩ := exists_representable_nat fmt (hn.trans_le (two_pow_24_le fmt))
    have hbias := bias_ge fmt
    have hone : (2 : ℚ) ^ (0 : Int) ≤ |y.rat| := by
      rw [hrat, zpow_zero, Nat.abs_cast]
      exact_mod_cast hn0
    have hexp := hy.lt_exp_add hone
    refine ⟨⟨y.neg, y.mant, y.exp + e⟩, ⟨hy.1, ?_, .inl (hy.full_of_le_abs (by omega) hone)⟩, ?_⟩
    · simp only [MeasFloat.minExp]
      omega
    · rw [← hrat, Fp.rat, Fp.rat, zpow_add₀ two_ne_zero, mul_assoc _ _ (2 ^ e)]

/-! ### The constants (R115) -/

/-- A literal that is a 16-bit natural number is exact. -/
theorem fconst_nat_rat (fmt : MeasFloat) (n : BitVec 16) : (fconst fmt ⟨(n.toNat : Int), 1⟩).rat = n.toNat :=
  toFloat_rat fmt n

theorem fconst_sixteen_rat (fmt : MeasFloat) : (fconst fmt ⟨16, 1⟩).rat = 16 := fconst_nat_rat fmt 16#16

theorem fconst_hundred_rat (fmt : MeasFloat) : (fconst fmt ⟨100, 1⟩).rat = 100 := fconst_nat_rat fmt 100#16

/-- A number with a nonzero value has a nonzero mantissa. -/
theorem mant_ne_zero_of_rat_ne_zero {x : Fp} (hx : x.rat ≠ 0) : x.mant ≠ 0 :=
  fun h => hx (by simp [Fp.rat, h])

/-- 273.15 rounded to the 53 bits of binary64. -/
theorem fconst_celsius_binary64 : fconst .binary64 ⟨27315, 100⟩ = ⟨false, 0x11126666666666, -44⟩ := by decide

/-- 273.15 rounded to the 24 bits of binary32. -/
theorem fconst_celsius_binary32 : fconst .binary32 ⟨27315, 100⟩ = ⟨false, 0x889333, -15⟩ := by decide

/-- In both formats the constant 273.15 is rounded down, by less than 0.00001. -/
theorem fconst_celsius_bounds (fmt : MeasFloat) :
    273.14999 ≤ (fconst fmt ⟨27315, 100⟩).rat ∧ (fconst fmt ⟨27315, 100⟩).rat ≤ 273.15 := by
  cases fmt
  · rw [fconst_celsius_binary64]
    norm_num [Fp.rat]
  · rw [fconst_celsius_binary32]
    norm_num [Fp.rat]

/-! ### Temperature (R111) -/

/-- Division by 16 only moves the binary point of a 16-bit value, so it is exact (R115). -/
theorem toFloat_div_sixteen_rat (fmt : MeasFloat) (v : BitVec 16) :
    (fdiv fmt (toFloat fmt v) (fconst fmt ⟨16, 1⟩)).rat = (v.toNat : ℚ) / 16 := by
  have hsixteen := fconst_sixteen_rat fmt
  have hnear := fdiv_nearestEven fmt (toFloat fmt v) (fconst fmt ⟨16, 1⟩)
    (mant_ne_zero_of_rat_ne_zero (by rw [hsixteen]; norm_num))
  rw [hsixteen, toFloat_rat] at hnear
  obtain ⟨y, hy, hrat⟩ := formatValue_dyadic fmt (e := -4) (v.isLt.trans (by norm_num)) (by norm_num)
  have hq : y.rat = (v.toNat : ℚ) / 16 := by rw [hrat]; norm_num [div_eq_mul_inv]
  rw [← hq] at hnear ⊢
  exact hnear.rat_eq hy

/-- A temperature is the exact `v / 16` less the rounded 273.15, rounded once. -/
theorem temperatureOf_nearestEven (fmt : MeasFloat) (v : BitVec 16) :
    (temperatureOf fmt v).NearestEven fmt ((v.toNat : ℚ) / 16 - (fconst fmt ⟨27315, 100⟩).rat) := by
  rw [← toFloat_div_sixteen_rat fmt v]
  exact fsub_nearestEven fmt _ _

/-- The least temperature is that of raw 0, whose subtraction is exact. -/
theorem le_temperatureOf (fmt : MeasFloat) (v : BitVec 16) : -273.15 ≤ (temperatureOf fmt v).rat := by
  obtain ⟨-, hconst⟩ := fconst_celsius_bounds fmt
  have hvalue : FormatValue fmt (fconst fmt ⟨27315, 100⟩).rat :=
    (roundFrac_nearestEven fmt (x := ⟨27315, 100⟩) (by norm_num)).1.formatValue
  have hv : (0 : ℚ) ≤ v.toNat / 16 := by positivity
  have hle := (temperatureOf_nearestEven fmt v).le_rat hvalue.neg (by linarith)
  linarith

/-- The greatest temperature is that of raw 65535, rounded up to at most the next multiple of 2^-12. -/
theorem temperatureOf_le (fmt : MeasFloat) (v : BitVec 16) : (temperatureOf fmt v).rat ≤ 3822.7876 := by
  obtain ⟨hconst, -⟩ := fconst_celsius_bounds fmt
  have hv : (v.toNat : ℚ) ≤ 65535 := by exact_mod_cast Nat.le_of_lt_succ v.isLt
  have hbound := formatValue_dyadic fmt (n := 15658138) (e := -12) (by norm_num) (by norm_num)
  have hle := (temperatureOf_nearestEven fmt v).rat_le hbound (by norm_num at hconst ⊢; linarith)
  norm_num at hle ⊢
  linarith

/-- A temperature keeps its distance from 0: 273.15 is not a multiple of 1/16, and the nearest one is over 1/64 away. -/
theorem le_abs_temperatureOf (fmt : MeasFloat) (v : BitVec 16) : 1 / 64 ≤ |(temperatureOf fmt v).rat| := by
  obtain ⟨hlow, hhigh⟩ := fconst_celsius_bounds fmt
  have hnear := temperatureOf_nearestEven fmt v
  have hunit : FormatValue fmt (1 / 64) := by
    convert formatValue_dyadic fmt (n := 1) (e := -6) (by norm_num) (by norm_num) using 1
    norm_num
  rcases Nat.lt_or_ge v.toNat 4371 with hv | hv
  · have hv' : (v.toNat : ℚ) ≤ 4370 := by exact_mod_cast Nat.le_of_lt_succ hv
    have hle := hnear.rat_le hunit.neg (by norm_num at hlow; linarith)
    exact le_abs.2 (.inr (by linarith))
  · have hv' : (4371 : ℚ) ≤ v.toNat := by exact_mod_cast hv
    exact le_abs.2 (.inl (hnear.le_rat hunit (by norm_num at hhigh; linarith)))

/-- Every temperature is a normal finite number (R115). -/
theorem temperatureOf_normal_finite (fmt : MeasFloat) (v : BitVec 16) :
    2 ^ (fmt.precision - 1) ≤ (temperatureOf fmt v).mant ∧
    (temperatureOf fmt v).exp + (fmt.precision : Int) - 1 ≤ (fmt.bias : Int) := by
  have hlow := le_temperatureOf fmt v
  have hhigh := temperatureOf_le fmt v
  refine (temperatureOf_nearestEven fmt v).1.normal_finite
    (le_trans (by norm_num) (le_abs_temperatureOf fmt v)) (abs_lt.2 ⟨?_, ?_⟩)
  · exact lt_of_lt_of_le (by norm_num) hlow
  · exact lt_of_le_of_lt hhigh (by norm_num)

/-! ### Humidity (R112) -/

/-- A humidity is the exact `v / 100`, rounded once. -/
theorem humidityOf_nearestEven (fmt : MeasFloat) (v : BitVec 16) :
    (humidityOf fmt v).NearestEven fmt ((v.toNat : ℚ) / 100) := by
  have hhundred := fconst_hundred_rat fmt
  have hnear := fdiv_nearestEven fmt (toFloat fmt v) (fconst fmt ⟨100, 1⟩)
    (mant_ne_zero_of_rat_ne_zero (by rw [hhundred]; norm_num))
  rwa [hhundred, toFloat_rat] at hnear

/-- The humidity of raw 0 is +0. -/
theorem humidityOf_zero_bits (fmt : MeasFloat) : (humidityOf fmt 0).bits fmt = 0 := by
  cases fmt <;> decide

/-- The greatest humidity is that of raw 65535, rounded up to at most the next multiple of 2^-14. -/
theorem humidityOf_le (fmt : MeasFloat) (v : BitVec 16) : (humidityOf fmt v).rat ≤ 655.3501 := by
  have hv : (v.toNat : ℚ) ≤ 65535 := by exact_mod_cast Nat.le_of_lt_succ v.isLt
  have hbound := formatValue_dyadic fmt (n := 10737255) (e := -14) (by norm_num) (by norm_num)
  have hle := (humidityOf_nearestEven fmt v).rat_le hbound (by norm_num; linarith)
  norm_num at hle ⊢
  linarith

/-- The least nonzero humidity is that of raw 1. -/
theorem le_humidityOf (fmt : MeasFloat) {v : BitVec 16} (hv : v ≠ 0) : 1 / 128 ≤ (humidityOf fmt v).rat := by
  have hv' : (1 : ℚ) ≤ v.toNat := by
    exact_mod_cast Nat.one_le_iff_ne_zero.2 fun h => hv (BitVec.eq_of_toNat_eq h)
  refine (humidityOf_nearestEven fmt v).le_rat ?_ (by linarith)
  convert formatValue_dyadic fmt (n := 1) (e := -7) (by norm_num) (by norm_num) using 1
  norm_num

/-- Every humidity but that of raw 0 is a normal finite number (R115). -/
theorem humidityOf_normal_finite (fmt : MeasFloat) {v : BitVec 16} (hv : v ≠ 0) :
    2 ^ (fmt.precision - 1) ≤ (humidityOf fmt v).mant ∧
    (humidityOf fmt v).exp + (fmt.precision : Int) - 1 ≤ (fmt.bias : Int) := by
  have hlow := le_humidityOf fmt hv
  have hhigh := humidityOf_le fmt v
  have habs := abs_of_nonneg (le_trans (by norm_num) hlow)
  refine (humidityOf_nearestEven fmt v).1.normal_finite ?_ ?_ <;> rw [habs]
  · exact hlow
  · exact lt_of_le_of_lt hhigh (by norm_num)

/-! ### The classification of a record -/

/-- A record with none of the three tags gives KIND NONE and RESULT 0, with status OK (R114). -/
theorem classifyResponse_of_unknown_tag (fmt : MeasFloat) {r : Record} (flag : Bool) (ht : r.tag ≠ 0x42) (hh : r.tag ≠ 0x44)
    (hc : r.tag ≠ 0x50) : classifyResponse fmt r flag = ⟨.ok, .none, flag, 0⟩ := by
  have hnone : classify fmt r = none := (if_neg ht).trans ((if_neg hh).trans (if_neg hc))
  rw [classifyResponse, hnone]
  rfl

/-- CLASSIFY latches the classification of the record in lanes 0 to 2, with FLAG 0, and loads no register (R119). -/
theorem exec_classify {op : Bytes8} {v : BitVec 16} (hv : v.toNat = (op[1]).toNat * 256 + (op[2]).toNat) (s : State) :
    exec (.classify op) s = .next (s.respond (classifyResponse s.params.measFloat ⟨op[0], v⟩ false)) := by
  have hvalue : (recordOfFrame op).value = v := BitVec.eq_of_toNat_eq ((recordOfFrame_value_toNat op).trans hv.symm)
  rw [exec_eq, ← hvalue]
  rfl

end Machine

end Sys2Proof

open Sys2Proof Sys2Proof.Machine

/-- Settles O44: rounding cannot pass a number of the format, so bounds of the exact results by dyadic numbers of both formats
are bounds of the rounded ones. -/
theorem conversionResultsAreFiniteNormal : Obligations.ConversionResultsAreFiniteNormal := by
  unfold Obligations.ConversionResultsAreFiniteNormal
  intro fmt v
  refine ⟨toFloat_div_sixteen_rat fmt v, ?_, ?_, fun hv => ?_⟩
  · obtain ⟨hfull, hexp⟩ := temperatureOf_normal_finite fmt v
    exact ⟨hfull, hexp, le_temperatureOf fmt v, temperatureOf_le fmt v⟩
  · rintro rfl
    exact humidityOf_zero_bits fmt
  · obtain ⟨hfull, hexp⟩ := humidityOf_normal_finite fmt hv
    have hpos : 0 < (humidityOf fmt v).rat := lt_of_lt_of_le (by norm_num) (le_humidityOf fmt hv)
    exact ⟨neg_eq_false_of_rat_pos hpos, hfull, hexp, humidityOf_le fmt v⟩

/-- Settles O23: CLASSIFY loads no register, and its response is chosen by the tag whatever the state. -/
theorem classifyCommand : Obligations.ClassifyCommand := by
  unfold Obligations.ClassifyCommand
  refine ⟨fun cmd h => decode_command_iff.2 ⟨h, rfl⟩, fun op s v hv => ?_⟩
  rw [exec_classify hv]
  exact ⟨fun htag => by rw [htag]; rfl, fun htag => by rw [htag]; rfl, fun htag => by rw [htag]; rfl,
    fun ht hh hc => by rw [classifyResponse_of_unknown_tag _ _ ht hh hc]; rfl⟩

/-- Settles O43: 273.15 has the rounded mantissa and exponent of each format, and the two integers are exact. -/
theorem floatConstants : Obligations.FloatConstants := by
  unfold Obligations.FloatConstants
  rw [fconst_celsius_binary64, fconst_celsius_binary32]
  exact ⟨by decide, by decide, fun fmt => ⟨fconst_sixteen_rat fmt, fconst_hundred_rat fmt⟩⟩
end

section
/-! Settlements of the pipeline family (44_pipeline.md): the two uses of the heuristic (R133), the Measurements of R135, the
refinement of the single commands (R162), and the command DECODE (R130 to R132). -/

namespace Sys2Proof.Machine

/-! ### The plaintext -/

/-- The heuristic's first use: the raw frame is deobfuscated exactly when its byte 4 is not the marker (R130). -/
theorem plaintext_eq_ite (p : Params) (s raw : Bytes8) :
    plaintext p s raw = if raw[4] ≠ 0x0D then deobfuscate p s raw else raw := by
  simp only [plaintext, looksObfuscated_eq, decide_eq_true_eq]

theorem plaintext_of_marker (p : Params) (s : Bytes8) {raw : Bytes8} (h : raw[4] = 0x0D) : plaintext p s raw = raw := by
  rw [plaintext_eq_ite, if_neg (not_not.2 h)]

theorem plaintext_of_no_marker (p : Params) (s : Bytes8) {raw : Bytes8} (h : raw[4] ≠ 0x0D) :
    plaintext p s raw = deobfuscate p s raw := by
  rw [plaintext_eq_ite, if_pos h]

/-- Unpacking a packed frame gives the frame back (R43). -/
theorem resultLanes_laneWord (o : Bytes8) : resultLanes (laneWord o) = o :=
  bytes8_ext fun i => by rw [resultLanes, buffer_get, resultLane_laneWord]

/-- The plaintext is the frame a host picks by TESTOBF's FLAG: DEOBF's unpacked RESULT or the raw frame (R162). -/
theorem plaintext_eq_unpacked (p : Params) (s raw : Bytes8) :
    plaintext p s raw = if looksObfuscated raw then resultLanes (laneWord (deobfuscate p s raw)) else raw := by
  rw [plaintext, resultLanes_laneWord]

/-! ### The response of the pipeline -/

theorem decodeFrame_of_valid {p : Params} {s raw : Bytes8} (h : Machine.validate (plaintext p s raw) = .ok) :
    decodeFrame p s raw = classifyResponse p.measFloat (recordOfFrame (plaintext p s raw)) (looksObfuscated raw) := by
  simp only [decodeFrame, h, decodeFlag]

theorem decodeFrame_of_invalid {p : Params} {s raw : Bytes8} (h : Machine.validate (plaintext p s raw) ≠ .ok) :
    decodeFrame p s raw = ⟨.invalidFrame, .none, looksObfuscated raw, 0⟩ := by
  simp only [decodeFrame, (validate_eq_invalidFrame_iff _).2 h, decodeFlag]

/-- The status of the pipeline is that of its plaintext (R130). -/
theorem decodeFrame_status (p : Params) (s raw : Bytes8) :
    (decodeFrame p s raw).status = Machine.validate (plaintext p s raw) := by
  by_cases h : Machine.validate (plaintext p s raw) = .ok
  · rw [decodeFrame_of_valid h, h]
    rfl
  · rw [decodeFrame_of_invalid h, (validate_eq_invalidFrame_iff _).2 h]

/-- The heuristic's second use: the pipeline rejects a frame exactly when one of the two checks of its plaintext fails
(R101, R130). -/
theorem decodeFrame_rejects_iff (p : Params) (s raw : Bytes8) :
    (decodeFrame p s raw).status = .invalidFrame ↔
      (plaintext p s raw)[4] ≠ 0x0D ∨ checksum (plaintext p s raw) ≠ (plaintext p s raw)[3] := by
  rw [decodeFrame_status, validate_eq_invalidFrame_iff, ne_eq, validate_eq_ok_iff, not_and_or, or_comm]

/-- The pipeline's response is what VALIDATE and CLASSIFY say of the plaintext, with the heuristic's FLAG (R130, R162). -/
theorem decodeFrame_eq_ite (p : Params) (s raw : Bytes8) :
    decodeFrame p s raw =
      if Machine.validate (plaintext p s raw) = .ok then
        { classifyResponse p.measFloat (recordOfFrame (plaintext p s raw)) false with flag := looksObfuscated raw }
      else ⟨Machine.validate (plaintext p s raw), .none, looksObfuscated raw, 0⟩ := by
  by_cases h : Machine.validate (plaintext p s raw) = .ok
  · rw [if_pos h, decodeFrame_of_valid h]
    rfl
  · rw [if_neg h, decodeFrame_of_invalid h, (validate_eq_invalidFrame_iff _).2 h]

/-! ### Measurements -/

/-- A record is classified as some kind exactly when its tag is one of the three (R111 to R114). -/
theorem kindOf_classify_ne_none_iff (fmt : MeasFloat) (r : Record) :
    kindOf (classify fmt r) ≠ .none ↔ r.tag = 0x42 ∨ r.tag = 0x44 ∨ r.tag = 0x50 := by
  unfold classify
  split_ifs with ht hh hc
  · exact iff_of_true nofun (.inl ht)
  · exact iff_of_true nofun (.inr (.inl hh))
  · exact iff_of_true nofun (.inr (.inr hc))
  · exact iff_of_false (not_not.2 rfl) (not_or.2 ⟨ht, not_or.2 ⟨hh, hc⟩⟩)

/-- The pipeline yields a Measurement exactly for a valid plaintext with a recognized tag (R135). -/
theorem decodeFrame_measurements (p : Params) (s raw : Bytes8) :
    (decodeFrame p s raw).measurements =
      if Machine.validate (plaintext p s raw) = .ok ∧ ((plaintext p s raw)[0] = 0x42 ∨ (plaintext p s raw)[0] = 0x44 ∨
        (plaintext p s raw)[0] = 0x50) then 1 else 0 := by
  refine if_congr ?_ rfl rfl
  rw [decodeFrame_status]
  refine and_congr_right fun h => ?_
  rw [decodeFrame_of_valid h]
  exact kindOf_classify_ne_none_iff _ _

/-! ### The commands of a keyed block -/

/-- A command of a keyed block latches its response and changes nothing else (R30). -/
theorem exec_keyed {s : State} (hk : s.keyed = true) (i : Instr) :
    exec i s = .next (s.respond (responseOf i s.params true s.secret)) := by
  rw [exec_eq, loadedBy_keyed hk, hk]

/-- A command of a keyed block answers the same after any other response (R46, R156). -/
theorem exec_keyed_respond {s : State} (hk : s.keyed = true) (r : Response) (i : Instr) :
    exec i (s.respond r) = .next (s.respond (responseOf i s.params true s.secret)) := by
  rw [exec_respond, exec_keyed hk]

/-- DECODE of a keyed block latches the pipeline's response (R132). -/
theorem exec_decode_keyed {s : State} (hk : s.keyed = true) (raw : Bytes8) :
    exec (.decode raw) s = .next (s.respond (decodeFrame s.params s.secret raw)) :=
  exec_keyed hk (.decode raw)

end Sys2Proof.Machine

open Sys2Proof Sys2Proof.Machine

/-- Settles O38: FLAG and the plaintext follow the first use of the heuristic, the rejection its second use on that plaintext. -/
theorem heuristicIsUsedTwice : Obligations.HeuristicIsUsedTwice := by
  unfold Obligations.HeuristicIsUsedTwice
  intro raw s hk
  have hflag := (decodeFrame_flag s.params s.secret raw).trans (looksObfuscated_eq raw)
  have hreject := decodeFrame_rejects_iff s.params s.secret raw
  refine ⟨_, exec_decode_keyed hk raw, fun hmark => ?_, fun hmark => ?_⟩
  · rw [plaintext_of_marker _ _ hmark, or_iff_right (not_not.2 hmark)] at hreject
    exact ⟨hflag.trans (decide_eq_false (not_not.2 hmark)), hreject⟩
  · rw [plaintext_of_no_marker _ _ hmark] at hreject
    exact ⟨hflag.trans (decide_eq_true hmark), hreject⟩

/-- Settles O39: a keyed DECODE latches the pipeline's response, whose kind is the classification of a valid plaintext. -/
theorem decodeYieldsAtMostOneMeasurement : Obligations.DecodeYieldsAtMostOneMeasurement :=
  fun raw s hk => ⟨_, exec_decode_keyed hk raw, decodeFrame_measurements s.params s.secret raw⟩

/-- Settles O40: each command of a keyed block changes only the latch, and the frame the host validates and classifies is the
plaintext, as DEOBF's lanes unpack to the frame it packed. -/
theorem decodeRefinesTheSingleCommands : Obligations.DecodeRefinesTheSingleCommands := by
  unfold Obligations.DecodeRefinesTheSingleCommands
  intro raw s hk
  refine ⟨s.respond (responseOf (.testobf raw) s.params true s.secret),
    s.respond (responseOf (.deobf raw) s.params true s.secret),
    s.respond (responseOf (.validate (plaintext s.params s.secret raw)) s.params true s.secret),
    s.respond (responseOf (.classify (plaintext s.params s.secret raw)) s.params true s.secret),
    s.respond (decodeFrame s.params s.secret raw),
    exec_keyed hk _, exec_keyed_respond hk _ _, ?_, exec_decode_keyed hk raw,
    congrArg s.respond (decodeFrame_eq_ite s.params s.secret raw)⟩
  intro plain
  have hplain : plain = plaintext s.params s.secret raw := (plaintext_eq_unpacked s.params s.secret raw).symm
  rw [hplain]
  exact ⟨exec_keyed_respond hk _ _, exec_keyed_respond hk _ _⟩

/-- Settles O24: a keyed DECODE latches the pipeline's response, by the verdict on its plaintext; an unkeyed one raises NO_KEY
whatever the frame. -/
theorem decodeCommand : Obligations.DecodeCommand := by
  unfold Obligations.DecodeCommand
  refine ⟨fun cmd h => decode_command_iff.2 ⟨h, rfl⟩, fun raw plain s hk hplain => ?_, fun raw s hk => ?_⟩
  · obtain rfl : plain = plaintext s.params s.secret raw := hplain.trans (plaintext_eq_ite _ _ _).symm
    rw [exec_decode_keyed hk, ← looksObfuscated_eq]
    refine ⟨fun h => ?_, fun h => ?_⟩
    · rw [decodeFrame_of_valid h]
      rfl
    · rw [decodeFrame_of_invalid h]
      rfl
  · rw [exec_eq, responseOf, if_neg (by simp [hk])]
    rfl
end

section
/-! Settlement of the key family (45_key.md): the command SETKEY (R141, R154). -/

namespace Sys2Proof.Machine

/-- A SETKEY of an unkeyed block loads its operand and answers OK (R141). -/
theorem exec_setkey_unkeyed {s : State} (hk : s.keyed = false) (op : Bytes8) :
    exec (.setkey op) s = .next ((s.loadSecret op).respond ⟨.ok, .none, false, 0⟩) := by
  simp [exec_eq, loadedBy, responseOf, hk]

/-- No nine bytes, whatever their opcode, give a keyed block another secret or unlock it (R30). -/
theorem perform_keyed_registers {cmd : Command} {s t : State} (hk : s.keyed = true) (h : perform cmd s = .next t) :
    t.secret = s.secret ∧ t.keyed = true := by
  obtain ⟨hsecret, hkeyed⟩ | ⟨-, -, -, -, hunkeyed, -⟩ := serve_registers (e := .command cmd) (by simp) h
  · exact ⟨hsecret, hkeyed.trans hk⟩
  · exact absurd hk (by simp [hunkeyed])

end Sys2Proof.Machine

open Sys2Proof Sys2Proof.Machine

/-- Settles O19: SETKEY loads an unkeyed block and is locked out of a keyed one, whose registers no command writes. -/
theorem setkeyCommand : Obligations.SetkeyCommand := by
  unfold Obligations.SetkeyCommand
  exact ⟨fun cmd h => decode_command_iff.2 ⟨h, rfl⟩, fun op s hk => exec_setkey_unkeyed hk op,
    fun op s hk => exec_setkey_locked hk op, fun cmd s t hk h => perform_keyed_registers hk h⟩
end

section
/-! Settlements of the exceptions family (60_exceptions.md): every command completes with exactly one status (R150, R157), a
reserved opcode with ILLEGAL_OPCODE (R152), and no status has an effect on a later command (R156). -/

namespace Sys2Proof.Machine

/-- The status of a decoded command, by the checks in their order (R157). -/
theorem responseOf_status (i : Instr) (p : Params) (keyed : Bool) (x : Bytes8) :
    (responseOf i p keyed x).status =
      if i.opcode = 0x01 ∧ keyed = true then .keyLocked
      else if (i.opcode = 0x02 ∨ i.opcode = 0x06) ∧ keyed = false then .noKey
      else if (i.opcode = 0x04 ∧ Machine.validate i.op = .invalidFrame) ∨
              (i.opcode = 0x06 ∧ Machine.validate (plaintext p x i.op) = .invalidFrame) then .invalidFrame
      else .ok := by
  cases i with
  | setkey op => cases keyed <;> simp [responseOf, raised, Instr.opcode]
  | deobf op => cases keyed <;> simp [responseOf, raised, Instr.opcode]
  | testobf op => simp [responseOf, Instr.opcode]
  | validate op => obtain h | h := validate_cases op <;> simp [responseOf, Instr.opcode, Instr.op, h]
  | classify op => simp [responseOf, classifyResponse, Instr.opcode]
  | decode op =>
    cases keyed with
    | false => simp [responseOf, raised, Instr.opcode]
    | true =>
      obtain h | h := validate_cases (plaintext p x op) <;>
        simp [responseOf, decodeFrame_status, Instr.opcode, Instr.op, h]

/-- A decoded command has none of the opcodes R54 reserves. -/
theorem opcode_not_reserved (i : Instr) : ¬ (i.opcode.toNat = 0x00 ∨ 0x07 ≤ i.opcode.toNat) := by
  have hbounds := opcode_toNat_bounds i
  omega

/-- A command that is no SETKEY, or that comes to a keyed block, leaves the registers (R21, R22). -/
theorem perform_registers {cmd : Command} {s t : State} (hc : Command.opc cmd ≠ 0x01 ∨ s.keyed = true)
    (h : perform cmd s = .next t) : t.secret = s.secret ∧ t.keyed = s.keyed := by
  obtain hkept | ⟨_, op, hcmd, hd, hunkeyed, -⟩ := serve_registers (e := .command cmd) (by simp) h
  · exact hkept
  · cases hcmd
    obtain ⟨hopc, -⟩ := decode_command hd
    obtain hc | hc := hc
    · exact absurd hopc hc
    · exact absurd hc (by simp [hunkeyed])

end Sys2Proof.Machine

open Sys2Proof Sys2Proof.Machine

/-- Settles O25: a command is an answering event of the host, and such an event writes the registers only as the SETKEY of an
unkeyed block, and never the constants or the port. -/
theorem everyCommandCompletesWithinItsFrame : Obligations.EveryCommandCompletesWithinItsFrame := by
  unfold Obligations.EveryCommandCompletesWithinItsFrame
  intro cmd s
  obtain ⟨t, ht, hvalid⟩ := perform_next cmd s
  exact ⟨t, ht, hvalid, serve_params (e := .command cmd) ht, serve_port (e := .command cmd) ht,
    fun hc => perform_registers hc ht⟩

/-- Settles O26: the first check decides whether the command is decoded; the others are those of its response. -/
theorem statusPrecedence : Obligations.StatusPrecedence := by
  unfold Obligations.StatusPrecedence
  intro cmd s
  rw [show cmd[0] = Command.opc cmd from rfl]
  obtain ⟨i, hd, hp⟩ | ⟨e, hd, hp⟩ := perform_eq cmd s
  · obtain ⟨hopc, hop⟩ := decode_command hd
    rw [hopc, hop, if_neg (opcode_not_reserved i)]
    exact ⟨_, hp, responseOf_status i s.params s.keyed s.secret⟩
  · rw [if_pos (decode_rejected hd)]
    exact ⟨_, hp, rfl⟩

/-- Settles O12: a reserved opcode is performed as `raise ILLEGAL_OPCODE`, and the step performs the command at the head of the
port. -/
theorem reservedOpcodeRaisesIllegalOpcode : Obligations.ReservedOpcodeRaisesIllegalOpcode := by
  unfold Obligations.ReservedOpcodeRaisesIllegalOpcode
  intro s cmd hreserved
  refine ⟨perform_reserved hreserved s, fun rest hw hp => ?_⟩
  rw [step_of_port_cons hw hp]
  exact perform_reserved hreserved { s with port := rest }

/-- Settles O51: a command reads no field of the latch, which its response overwrites whole. -/
theorem noStatusIsSticky : Obligations.NoStatusIsSticky := perform_latch
end

section
/-! Settlements of the reset family (70_reset_and_hazards.md): a reset as a host event (R170), and the commands right after
it (R171). -/

namespace Sys2Proof.Machine

/-- With well-formed parameters the step of a reset resets the block, whichever command the reset loses (R170). -/
theorem step_of_reset {s : State} {lost : Option Command} {rest : List HostEvent} (hw : s.params.wf = true)
    (hp : s.port = .reset lost :: rest) : step s = .next (State.resetBlock { s with port := rest }) := by
  rw [step_of_port_cons hw hp]
  rfl

/-- The pipeline's status is a verdict on a frame, never NO_KEY (R130). -/
theorem decodeFrame_status_ne_noKey (p : Params) (s raw : Bytes8) : (decodeFrame p s raw).status ≠ .noKey := by
  rw [decodeFrame_status]
  obtain h | h := validate_cases (plaintext p s raw) <;> rw [h] <;> decide

end Sys2Proof.Machine

open Sys2Proof Sys2Proof.Machine

/-- Settles O15: the reset event is served as a reset of the block, which does not look at the command it loses. -/
theorem resetEvent : Obligations.ResetEvent := by
  unfold Obligations.ResetEvent
  intro s lost rest hw hp
  exact ⟨_, step_of_reset hw hp, resetBlock_keyed _, resetBlock_valid _, resetBlock_params _, resetBlock_port _,
    fun lost' => step_of_reset (s := { s with port := .reset lost' :: rest }) hw rfl⟩

/-- Settles O17: the power-on block is unkeyed, so its responses, NO_KEY of the two readers of SECRET included, are those
`responseOf` gives with KEYED = 0; its SETKEY is accepted, and the keyed block that it leaves runs both readers. -/
theorem firstCommandsAfterReset : Obligations.FirstCommandsAfterReset := by
  unfold Obligations.FirstCommandsAfterReset
  intro p op key
  refine ⟨⟨_, exec_eq _ _, rfl⟩, ⟨_, exec_eq _ _, rfl⟩, ⟨_, exec_eq _ _, rfl⟩, ⟨_, exec_eq _ _, rfl⟩,
    ⟨_, exec_eq _ _, rfl⟩, _, exec_setkey_unkeyed (powerOn_keyed p) key, ?_, ?_⟩
  · exact ⟨_, exec_keyed rfl (.deobf op), rfl⟩
  · exact ⟨_, exec_decode_keyed rfl op, decodeFrame_status_ne_noKey _ _ _⟩
end
